-- ==== Sys2Proof/Word.lean ====
section
/-! DEFINITION. The widths of the hardware: bytes on the wire, and the 16- and 32-bit fields of packets
(spec 00_scope section 8, 10_state R20). A field is an uninterpreted bit pattern (20_memory R33). -/

namespace Sys2Proof

/-- `bits8`: a wire byte, a raw byte, an 8-bit field. -/
abbrev Byte := BitVec 8

/-- `bits16`: the fields of the three int16 triples, as patterns (20_memory R33). -/
abbrev Half := BitVec 16

/-- `bits32`: the float32 fields, the version and the device ID, as patterns (20_memory R33). -/
abbrev Word := BitVec 32

/-- The 192-bit payload port of 70_reset R190: 24 bytes, the byte at raw-frame offset 1 most significant. -/
abbrev PayloadPort := BitVec 192

end Sys2Proof
end

