-- ==== Sys2Proof/Config.lean ====
section
/-! DEFINITION. What is fixed for the machine: the constants of spec 00_scope section 5 (hardwired, 10_state R19), the one
OPEN parameter `ENC_HANDLED` (43_packet_encode R130, D8), and the free values of the bits the spec leaves open (U2, U7, U8,
R190). -/

namespace Sys2Proof

/-- The delimiter, 30_encoding R50. -/
abbrev Config.delim : Byte := 0xC0#8

/-- The escape introducer, 30_encoding R50. -/
abbrev Config.escIntro : Byte := 0xDB#8

/-- The escaped-delimiter code, 30_encoding R50. -/
abbrev Config.escDelim : Byte := 0xDC#8

/-- The escaped-escape code, 30_encoding R50. -/
abbrev Config.escEsc : Byte := 0xDD#8

/-- The capacity of the accumulation buffer, 10_state R11 (D5): 1 + 6×4. -/
abbrev Config.maxUnpacked : Nat := 25

/-- The largest payload, 10_state R21. -/
abbrev Config.maxPayload : Nat := 24

/-- The size of the output buffer, 30_encoding R61: 1 + 2×(1 + 6×4). -/
abbrev Config.packetMaxSize : Nat := 51

/-- The one parameter the spec leaves OPEN (D8, U9): which of the tags 0 to 15 the encoder emits with a payload. Entry `t` is
whether tag `t` is in `ENC_HANDLED`. It is constant while the machine runs (10_state R19); claims hold for every value. -/
structure Config where
  encHandled : Vector Bool 16
deriving DecidableEq, Repr

/-- The spec's default for `ENC_HANDLED`: every tag that has a payload, {0, ..., 15} (43_packet_encode R130). -/
def Config.default : Config := { encHandled := Vector.replicate 16 true }

/-- The places whose value the spec leaves open in a step: which byte of which place. -/
inductive FreeSlot where
  /-- entry `i` of `buf` after a reset (U2, 10_state R23) -/
  | bufEntry (i : Nat)
  /-- the port `pkt_tag` in a step without `frame_ready` (U7) -/
  | pktTag
  /-- byte `k` of the port `pkt_payload` that carries no payload of the delivered packet (U7, U8) -/
  | pktPayload (k : Nat)
  /-- the port `tx_len` in a step without an encode request (70_reset R190) -/
  | txLen
  /-- byte `k` of the port `tx_data` at or above `tx_len`, or without an encode request (U3, 70_reset R190) -/
  | txData (k : Nat)
deriving DecidableEq, Repr

/-- FREE VALUE (log entry 8). Nothing constrains it: the first argument is the counter `State.fresh` that every step advances,
so each step draws anew. DESIGN CHOICE (log entry 19): the function is one for all instances and all runs, so at equal counters
the bytes of two instances are equal; the spec leaves each instance's bytes open on their own. -/
opaque Config.freeByte : Nat → FreeSlot → Byte

end Sys2Proof
end

