-- ==== Sys2Proof/Syntax.lean ====
section
/-! DEFINITION. The packet type of spec 10_state R20 and the instruction set: one constructor for each of the 45 mnemonics of
spec/opcode_table.json (00_scope section 6 says what plays the role of an instruction). -/

namespace Sys2Proof

/-- The 17 packet kinds, in the order of their tags 0 to 16 (10_state R20, 30_encoding R56). -/
inductive Kind where
  | quaternion | accel | gyro | mag | temperature | gpio | color | blink | ir | stream | version | deviceId
  | calibration | gpioDdr | gpioPort | power | bootload
deriving DecidableEq, Repr

/-- A typed packet: the tagged union of 10_state R20; the field with index 0 is first on the wire. -/
inductive Packet where
  | quaternion (q0 q1 q2 q3 : Word)
  | accel (a0 a1 a2 : Half)
  | gyro (g0 g1 g2 : Half)
  | mag (m0 m1 m2 : Half)
  | temperature (t : Word)
  | gpio (v : Byte)
  | color (c0 c1 c2 : Byte)
  | blink (c0 c1 c2 : Byte)
  | ir (v : Byte)
  | stream (v : Byte)
  | version (w : Word)
  | deviceId (w : Word)
  | calibration (k0 k1 k2 k3 k4 k5 : Word)
  | gpioDdr (v : Byte)
  | gpioPort (v : Byte)
  | power (v : Byte)
  | bootload
deriving DecidableEq, Repr

/-- The four opcode spaces of 30_encoding R66, and the row that is no opcode space. -/
inductive Space where
  /-- the input byte of `FEED` (R51) -/
  | rxByte
  /-- a raw byte given to `STUFF` (R53) -/
  | txRawByte
  /-- the tag byte `buf[0]` of a closed frame (R55, R59) -/
  | decTag
  /-- the tag of an encode request, followed by its payload (R55, 70_reset R190) -/
  | encTag
  /-- `TERMINATE`: selected by no byte (41_stuffer R90) -/
  | txFrameEnd
deriving DecidableEq, Repr

/-- The instructions: one constructor per mnemonic of the opcode table. A `DEC` instruction has no operand of its own (its
operand is the closed frame in `buf`); an `ENC` instruction carries the fields of its packet. -/
inductive Instr where
  -- space rx_byte (40_unstuffer R71 to R75)
  | endFrame
  | esc
  | escEnd
  | escEsc
  | lit (b : Byte)
  -- space tx_raw_byte (41_stuffer R86 to R88) and the terminator (R90)
  | stuffEnd
  | stuffEsc
  | stuffPass (r : Byte)
  | terminate
  -- space dec_tag (42_packet_decode R101 to R118)
  | decQuaternion
  | decAccel
  | decGyro
  | decMag
  | decTemperature
  | decGpio
  | decColor
  | decBlink
  | decIr
  | decStream
  | decVersion
  | decDeviceId
  | decCalibration
  | decGpioDdr
  | decGpioPort
  | decPower
  | decBootload
  | badTag (tag : Byte)
  -- space enc_tag (43_packet_encode R131 to R148)
  | encQuaternion (q0 q1 q2 q3 : Word)
  | encAccel (a0 a1 a2 : Half)
  | encGyro (g0 g1 g2 : Half)
  | encMag (m0 m1 m2 : Half)
  | encTemperature (t : Word)
  | encGpio (v : Byte)
  | encColor (c0 c1 c2 : Byte)
  | encBlink (c0 c1 c2 : Byte)
  | encIr (v : Byte)
  | encStream (v : Byte)
  | encVersion (w : Word)
  | encDeviceId (w : Word)
  | encCalibration (k0 k1 k2 k3 k4 k5 : Word)
  | encGpioDdr (v : Byte)
  | encGpioPort (v : Byte)
  | encPower (v : Byte)
  | encBootload
  | encTagOnly (tag : Byte)
deriving DecidableEq, Repr

/-- The opcode space an instruction belongs to (30_encoding R66). -/
def Instr.space : Instr → Space
  | .endFrame | .esc | .escEnd | .escEsc | .lit _ => .rxByte
  | .stuffEnd | .stuffEsc | .stuffPass _ => .txRawByte
  | .terminate => .txFrameEnd
  | .decQuaternion | .decAccel | .decGyro | .decMag | .decTemperature | .decGpio | .decColor | .decBlink | .decIr
  | .decStream | .decVersion | .decDeviceId | .decCalibration | .decGpioDdr | .decGpioPort | .decPower
  | .decBootload | .badTag _ => .decTag
  | .encQuaternion .. | .encAccel .. | .encGyro .. | .encMag .. | .encTemperature _ | .encGpio _ | .encColor ..
  | .encBlink .. | .encIr _ | .encStream _ | .encVersion _ | .encDeviceId _ | .encCalibration .. | .encGpioDdr _
  | .encGpioPort _ | .encPower _ | .encBootload | .encTagOnly _ => .encTag

end Sys2Proof
end

