-- ==== Sys2Proof/WellFormed.lean ====
section
/-! DEFINITION. Which instructions have an encoding: the operand byte of `LIT`, `STUFF.PASS`, `BAD_TAG` and `ENC.TagOnly` lies in
the class its rows of the opcode table match (spec 30_encoding R51, R53, R59, R66). -/

namespace Sys2Proof

/-- R51: a `LIT` byte is none of the four reserved symbols. -/
def isLitByte (b : Byte) : Bool :=
  b != Config.delim && b != Config.escIntro && b != Config.escDelim && b != Config.escEsc

/-- R53: a `STUFF.PASS` byte is neither the delimiter nor the escape introducer. -/
def isPassByte (r : Byte) : Bool :=
  r != Config.delim && r != Config.escIntro

/-- R59: the tags 17 to 255 name no packet kind. -/
def isInvalidTag (tag : Byte) : Bool :=
  decide (17 ≤ tag.toNat)

/-- An instruction that some bits encode. -/
def WellFormed : Instr → Bool
  | .lit b => isLitByte b
  | .stuffPass r => isPassByte r
  | .badTag tag => isInvalidTag tag
  | .encTagOnly tag => isInvalidTag tag
  | .endFrame | .esc | .escEnd | .escEsc => true
  | .stuffEnd | .stuffEsc | .terminate => true
  | .decQuaternion | .decAccel | .decGyro | .decMag | .decTemperature | .decGpio | .decColor | .decBlink | .decIr
  | .decStream | .decVersion | .decDeviceId | .decCalibration | .decGpioDdr | .decGpioPort | .decPower
  | .decBootload => true
  | .encQuaternion .. | .encAccel .. | .encGyro .. | .encMag .. | .encTemperature _ | .encGpio _ | .encColor ..
  | .encBlink .. | .encIr _ | .encStream _ | .encVersion _ | .encDeviceId _ | .encCalibration .. | .encGpioDdr _
  | .encGpioPort _ | .encPower _ | .encBootload => true

end Sys2Proof
end

