-- ==== Sys2Proof/Decode.lean ====
section
/-! DEFINITION. The encodings of spec 30_encoding: byte order, the tag and size tables, the decoder of each opcode space, the
opcode table's match and mask rows, and the encoder. Decoding is total: every byte of every space is an instruction (R66),
and the only rejections, by name, are of byte lists too short to hold one. -/

namespace Sys2Proof

/-! ## Byte order (20_memory R31): most significant byte first -/

/-- R31: a 16-bit field from its two wire bytes. -/
def be16 (b0 b1 : Byte) : Half := b0 ++ b1

/-- R31: a 32-bit field from its four wire bytes. -/
def be32 (b0 b1 b2 b3 : Byte) : Word := b0 ++ b1 ++ b2 ++ b3

/-- R31: the two wire bytes of a 16-bit field, `v[15:8]` then `v[7:0]`. -/
def bytes16 (v : Half) : List Byte := [v.extractLsb' 8 8, v.extractLsb' 0 8]

/-- R31: the four wire bytes of a 32-bit field, `v[31:24]` first. -/
def bytes32 (v : Word) : List Byte :=
  [v.extractLsb' 24 8, v.extractLsb' 16 8, v.extractLsb' 8 8, v.extractLsb' 0 8]

/-! ## Tags and sizes (30_encoding R55, R56) -/

/-- The 17 kinds in tag order (10_state R20). -/
def Kind.all : List Kind :=
  [.quaternion, .accel, .gyro, .mag, .temperature, .gpio, .color, .blink, .ir, .stream, .version, .deviceId,
   .calibration, .gpioDdr, .gpioPort, .power, .bootload]

/-- R56, first column: the tag byte of a kind. -/
def Kind.tag : Kind → Byte
  | .quaternion => 0x00#8 | .accel => 0x01#8 | .gyro => 0x02#8 | .mag => 0x03#8
  | .temperature => 0x04#8 | .gpio => 0x05#8 | .color => 0x06#8 | .blink => 0x07#8
  | .ir => 0x08#8 | .stream => 0x09#8 | .version => 0x0A#8 | .deviceId => 0x0B#8
  | .calibration => 0x0C#8 | .gpioDdr => 0x0D#8 | .gpioPort => 0x0E#8 | .power => 0x0F#8
  | .bootload => 0x10#8

/-- R56, column `P`: the number of payload bytes of a kind. -/
def Kind.payloadBytes : Kind → Nat
  | .quaternion => 16 | .accel => 6 | .gyro => 6 | .mag => 6 | .temperature => 4 | .gpio => 1 | .color => 3 | .blink => 3
  | .ir => 1 | .stream => 1 | .version => 4 | .deviceId => 4 | .calibration => 24 | .gpioDdr => 1 | .gpioPort => 1
  | .power => 1 | .bootload => 0

/-- R56: `SIZE[tag] = 1 + P[tag]`, the length of the raw frame, tag byte included. -/
def Kind.size (k : Kind) : Nat := 1 + k.payloadBytes

/-- R55, R59: the kind a tag byte names; none for 17 to 255. -/
def Kind.ofTag? (tag : Byte) : Option Kind := Kind.all.find? (fun k => k.tag == tag)

/-! ## The decoders of the four spaces -/

/-- R51, 40_unstuffer R70: the instruction an input byte selects, from its value alone. -/
def decodeRx (b : Byte) : Instr :=
  if b = Config.delim then .endFrame
  else if b = Config.escIntro then .esc
  else if b = Config.escDelim then .escEnd
  else if b = Config.escEsc then .escEsc
  else .lit b

/-- R53, 41_stuffer R85: the instruction a raw byte selects, from its value alone. -/
def decodeTx (r : Byte) : Instr :=
  if r = Config.delim then .stuffEnd
  else if r = Config.escIntro then .stuffEsc
  else .stuffPass r

/-- R55, R59, 42_packet_decode R100: the instruction the tag of a closed frame selects. -/
def decodeDec (tag : Byte) : Instr :=
  match Kind.ofTag? tag with
  | some .quaternion => .decQuaternion
  | some .accel => .decAccel
  | some .gyro => .decGyro
  | some .mag => .decMag
  | some .temperature => .decTemperature
  | some .gpio => .decGpio
  | some .color => .decColor
  | some .blink => .decBlink
  | some .ir => .decIr
  | some .stream => .decStream
  | some .version => .decVersion
  | some .deviceId => .decDeviceId
  | some .calibration => .decCalibration
  | some .gpioDdr => .decGpioDdr
  | some .gpioPort => .decGpioPort
  | some .power => .decPower
  | some .bootload => .decBootload
  | none => .badTag tag

/-- The byte at an offset of a byte list; 0 beyond its end. -/
def byteAt (bs : List Byte) (off : Nat) : Byte := bs.getD off 0#8

/-- R58: the 16-bit field at an offset of a byte list. -/
def halfAt (bs : List Byte) (off : Nat) : Half := be16 (byteAt bs off) (byteAt bs (off + 1))

/-- R58: the 32-bit field at an offset of a byte list. -/
def wordAt (bs : List Byte) (off : Nat) : Word :=
  be32 (byteAt bs off) (byteAt bs (off + 1)) (byteAt bs (off + 2)) (byteAt bs (off + 3))

/-- R57, 43_packet_encode R130: the instruction an encode request selects. `frame` is the request as the port presents it: the tag,
then the 24 bytes of `enc_payload`, so that a field stands at its offset of R57; bytes beyond the tag's payload are ignored
(70_reset R190). -/
def decodeEnc (frame : List Byte) : Instr :=
  match Kind.ofTag? (byteAt frame 0) with
  | some .quaternion => .encQuaternion (wordAt frame 1) (wordAt frame 5) (wordAt frame 9) (wordAt frame 13)
  | some .accel => .encAccel (halfAt frame 1) (halfAt frame 3) (halfAt frame 5)
  | some .gyro => .encGyro (halfAt frame 1) (halfAt frame 3) (halfAt frame 5)
  | some .mag => .encMag (halfAt frame 1) (halfAt frame 3) (halfAt frame 5)
  | some .temperature => .encTemperature (wordAt frame 1)
  | some .gpio => .encGpio (byteAt frame 1)
  | some .color => .encColor (byteAt frame 1) (byteAt frame 2) (byteAt frame 3)
  | some .blink => .encBlink (byteAt frame 1) (byteAt frame 2) (byteAt frame 3)
  | some .ir => .encIr (byteAt frame 1)
  | some .stream => .encStream (byteAt frame 1)
  | some .version => .encVersion (wordAt frame 1)
  | some .deviceId => .encDeviceId (wordAt frame 1)
  | some .calibration =>
      .encCalibration (wordAt frame 1) (wordAt frame 5) (wordAt frame 9) (wordAt frame 13) (wordAt frame 17)
        (wordAt frame 21)
  | some .gpioDdr => .encGpioDdr (byteAt frame 1)
  | some .gpioPort => .encGpioPort (byteAt frame 1)
  | some .power => .encPower (byteAt frame 1)
  | some .bootload => .encBootload
  | none => .encTagOnly (byteAt frame 0)

/-- Why a byte list holds no instruction of a space: it ends too early. No byte VALUE is rejected (R66). -/
inductive DecodeError where
  /-- the list is empty where one byte is needed -/
  | noByte
  /-- an encode request needs its tag and the 24 bytes of `enc_payload` (70_reset R190) -/
  | shortRequest
deriving DecidableEq, Repr

/-- Read one instruction of a space from the front of a byte list; the answer holds the bytes that follow it. -/
def decode : Space → List Byte → Except DecodeError (Instr × List Byte)
  | .rxByte, b :: rest => .ok (decodeRx b, rest)
  | .txRawByte, r :: rest => .ok (decodeTx r, rest)
  | .decTag, tag :: rest => .ok (decodeDec tag, rest)
  | .txFrameEnd, bs => .ok (.terminate, bs)
  | .encTag, tag :: rest =>
      if Config.maxPayload ≤ rest.length then
        .ok (decodeEnc (tag :: rest.take Config.maxPayload), rest.drop Config.maxPayload)
      else .error .shortRequest
  | .rxByte, [] | .txRawByte, [] | .decTag, [] | .encTag, [] => .error .noByte

/-! ## The encoder -/

/-- The request bytes of an `ENC` instruction: its tag, its payload, and zeros up to the port's 24 payload bytes. -/
def encRequest (tag : Byte) (payload : List Byte) : List Byte :=
  tag :: (payload ++ List.replicate (Config.maxPayload - payload.length) 0#8)

/-- The bits of an instruction in its own space, from the tables of R51, R53, R56, R57. -/
def encode : Instr → List Byte
  | .endFrame => [0xC0#8]
  | .esc => [0xDB#8]
  | .escEnd => [0xDC#8]
  | .escEsc => [0xDD#8]
  | .lit b => [b]
  | .stuffEnd => [0xC0#8]
  | .stuffEsc => [0xDB#8]
  | .stuffPass r => [r]
  | .terminate => []
  | .decQuaternion => [0x00#8]
  | .decAccel => [0x01#8]
  | .decGyro => [0x02#8]
  | .decMag => [0x03#8]
  | .decTemperature => [0x04#8]
  | .decGpio => [0x05#8]
  | .decColor => [0x06#8]
  | .decBlink => [0x07#8]
  | .decIr => [0x08#8]
  | .decStream => [0x09#8]
  | .decVersion => [0x0A#8]
  | .decDeviceId => [0x0B#8]
  | .decCalibration => [0x0C#8]
  | .decGpioDdr => [0x0D#8]
  | .decGpioPort => [0x0E#8]
  | .decPower => [0x0F#8]
  | .decBootload => [0x10#8]
  | .badTag tag => [tag]
  | .encQuaternion q0 q1 q2 q3 => encRequest 0x00#8 (bytes32 q0 ++ bytes32 q1 ++ bytes32 q2 ++ bytes32 q3)
  | .encAccel a0 a1 a2 => encRequest 0x01#8 (bytes16 a0 ++ bytes16 a1 ++ bytes16 a2)
  | .encGyro g0 g1 g2 => encRequest 0x02#8 (bytes16 g0 ++ bytes16 g1 ++ bytes16 g2)
  | .encMag m0 m1 m2 => encRequest 0x03#8 (bytes16 m0 ++ bytes16 m1 ++ bytes16 m2)
  | .encTemperature t => encRequest 0x04#8 (bytes32 t)
  | .encGpio v => encRequest 0x05#8 [v]
  | .encColor c0 c1 c2 => encRequest 0x06#8 [c0, c1, c2]
  | .encBlink c0 c1 c2 => encRequest 0x07#8 [c0, c1, c2]
  | .encIr v => encRequest 0x08#8 [v]
  | .encStream v => encRequest 0x09#8 [v]
  | .encVersion w => encRequest 0x0A#8 (bytes32 w)
  | .encDeviceId w => encRequest 0x0B#8 (bytes32 w)
  | .encCalibration k0 k1 k2 k3 k4 k5 =>
      encRequest 0x0C#8 (bytes32 k0 ++ bytes32 k1 ++ bytes32 k2 ++ bytes32 k3 ++ bytes32 k4 ++ bytes32 k5)
  | .encGpioDdr v => encRequest 0x0D#8 [v]
  | .encGpioPort v => encRequest 0x0E#8 [v]
  | .encPower v => encRequest 0x0F#8 [v]
  | .encBootload => encRequest 0x10#8 []
  | .encTagOnly tag => encRequest tag []

/-- The encode request a typed packet is: the `ENC` instruction of its tag with its fields (43_packet_encode R130). -/
def Packet.toEnc : Packet → Instr
  | .quaternion q0 q1 q2 q3 => .encQuaternion q0 q1 q2 q3
  | .accel a0 a1 a2 => .encAccel a0 a1 a2
  | .gyro g0 g1 g2 => .encGyro g0 g1 g2
  | .mag m0 m1 m2 => .encMag m0 m1 m2
  | .temperature t => .encTemperature t
  | .gpio v => .encGpio v
  | .color c0 c1 c2 => .encColor c0 c1 c2
  | .blink c0 c1 c2 => .encBlink c0 c1 c2
  | .ir v => .encIr v
  | .stream v => .encStream v
  | .version w => .encVersion w
  | .deviceId w => .encDeviceId w
  | .calibration k0 k1 k2 k3 k4 k5 => .encCalibration k0 k1 k2 k3 k4 k5
  | .gpioDdr v => .encGpioDdr v
  | .gpioPort v => .encGpioPort v
  | .power v => .encPower v
  | .bootload => .encBootload

/-- The kind of a packet (10_state R20: the tag alone determines the active payload). -/
def Packet.kind : Packet → Kind
  | .quaternion .. => .quaternion
  | .accel .. => .accel
  | .gyro .. => .gyro
  | .mag .. => .mag
  | .temperature _ => .temperature
  | .gpio _ => .gpio
  | .color .. => .color
  | .blink .. => .blink
  | .ir _ => .ir
  | .stream _ => .stream
  | .version _ => .version
  | .deviceId _ => .deviceId
  | .calibration .. => .calibration
  | .gpioDdr _ => .gpioDdr
  | .gpioPort _ => .gpioPort
  | .power _ => .power
  | .bootload => .bootload

/-- R57: the payload bytes of a packet in wire order. -/
def Packet.payload : Packet → List Byte
  | .quaternion q0 q1 q2 q3 => bytes32 q0 ++ bytes32 q1 ++ bytes32 q2 ++ bytes32 q3
  | .accel a0 a1 a2 => bytes16 a0 ++ bytes16 a1 ++ bytes16 a2
  | .gyro g0 g1 g2 => bytes16 g0 ++ bytes16 g1 ++ bytes16 g2
  | .mag m0 m1 m2 => bytes16 m0 ++ bytes16 m1 ++ bytes16 m2
  | .temperature t => bytes32 t
  | .gpio v => [v]
  | .color c0 c1 c2 => [c0, c1, c2]
  | .blink c0 c1 c2 => [c0, c1, c2]
  | .ir v => [v]
  | .stream v => [v]
  | .version w => bytes32 w
  | .deviceId w => bytes32 w
  | .calibration k0 k1 k2 k3 k4 k5 => bytes32 k0 ++ bytes32 k1 ++ bytes32 k2 ++ bytes32 k3 ++ bytes32 k4 ++ bytes32 k5
  | .gpioDdr v => [v]
  | .gpioPort v => [v]
  | .power v => [v]
  | .bootload => []

/-- 43_packet_encode R130: `Raw(p)`, the full raw frame `[tag] ++ payload` (30_encoding R54). -/
def Packet.raw (p : Packet) : List Byte := p.kind.tag :: p.payload

/-! ## The opcode table's rows (30_encoding R66) -/

/-- One match/mask row: a byte `b` selects it when `b AND mask = pattern`. -/
structure OpRow (α : Type) where
  pattern : Byte
  mask : Byte
  op : α
deriving DecidableEq, Repr

/-- R66: does a byte select this row? -/
def OpRow.selects {α : Type} (r : OpRow α) (b : Byte) : Bool := b &&& r.mask == r.pattern

/-- The five classes of R51. -/
inductive RxClass where
  | endFrame | esc | escEnd | escEsc | lit
deriving DecidableEq, Repr

/-- The three classes of R53. -/
inductive TxClass where
  | stuffEnd | stuffEsc | stuffPass
deriving DecidableEq, Repr

/-- The instruction of a class with a byte as its operand (R51). -/
def RxClass.instr (b : Byte) : RxClass → Instr
  | .endFrame => .endFrame
  | .esc => .esc
  | .escEnd => .escEnd
  | .escEsc => .escEsc
  | .lit => .lit b

/-- The instruction of a class with a raw byte as its operand (R53). -/
def TxClass.instr (r : Byte) : TxClass → Instr
  | .stuffEnd => .stuffEnd
  | .stuffEsc => .stuffEsc
  | .stuffPass => .stuffPass r

/-- The 15 rows of the space `rx_byte`, as R51 lists them. -/
def rxRows : List (OpRow RxClass) :=
  [⟨0xC0#8, 0xFF#8, .endFrame⟩, ⟨0xDB#8, 0xFF#8, .esc⟩, ⟨0xDC#8, 0xFF#8, .escEnd⟩, ⟨0xDD#8, 0xFF#8, .escEsc⟩,
   ⟨0x00#8, 0x80#8, .lit⟩, ⟨0x80#8, 0xC0#8, .lit⟩, ⟨0xC1#8, 0xFF#8, .lit⟩, ⟨0xC2#8, 0xFE#8, .lit⟩,
   ⟨0xC4#8, 0xFC#8, .lit⟩, ⟨0xC8#8, 0xF8#8, .lit⟩, ⟨0xD0#8, 0xF8#8, .lit⟩, ⟨0xD8#8, 0xFE#8, .lit⟩,
   ⟨0xDA#8, 0xFF#8, .lit⟩, ⟨0xDE#8, 0xFE#8, .lit⟩, ⟨0xE0#8, 0xE0#8, .lit⟩]

/-- The 13 rows of the space `tx_raw_byte`, as R53 lists them. -/
def txRows : List (OpRow TxClass) :=
  [⟨0xC0#8, 0xFF#8, .stuffEnd⟩, ⟨0xDB#8, 0xFF#8, .stuffEsc⟩,
   ⟨0x00#8, 0x80#8, .stuffPass⟩, ⟨0x80#8, 0xC0#8, .stuffPass⟩, ⟨0xC1#8, 0xFF#8, .stuffPass⟩,
   ⟨0xC2#8, 0xFE#8, .stuffPass⟩, ⟨0xC4#8, 0xFC#8, .stuffPass⟩, ⟨0xC8#8, 0xF8#8, .stuffPass⟩,
   ⟨0xD0#8, 0xF8#8, .stuffPass⟩, ⟨0xD8#8, 0xFE#8, .stuffPass⟩, ⟨0xDA#8, 0xFF#8, .stuffPass⟩,
   ⟨0xDC#8, 0xFC#8, .stuffPass⟩, ⟨0xE0#8, 0xE0#8, .stuffPass⟩]

/-- The 24 rows of the spaces `dec_tag` and `enc_tag` (R57, R59): `none` is `BAD_TAG` in the one, `ENC.TagOnly` in the other. -/
def tagRows : List (OpRow (Option Kind)) :=
  [⟨0x00#8, 0xFF#8, some .quaternion⟩, ⟨0x01#8, 0xFF#8, some .accel⟩, ⟨0x02#8, 0xFF#8, some .gyro⟩,
   ⟨0x03#8, 0xFF#8, some .mag⟩, ⟨0x04#8, 0xFF#8, some .temperature⟩, ⟨0x05#8, 0xFF#8, some .gpio⟩,
   ⟨0x06#8, 0xFF#8, some .color⟩, ⟨0x07#8, 0xFF#8, some .blink⟩, ⟨0x08#8, 0xFF#8, some .ir⟩,
   ⟨0x09#8, 0xFF#8, some .stream⟩, ⟨0x0A#8, 0xFF#8, some .version⟩, ⟨0x0B#8, 0xFF#8, some .deviceId⟩,
   ⟨0x0C#8, 0xFF#8, some .calibration⟩, ⟨0x0D#8, 0xFF#8, some .gpioDdr⟩, ⟨0x0E#8, 0xFF#8, some .gpioPort⟩,
   ⟨0x0F#8, 0xFF#8, some .power⟩, ⟨0x10#8, 0xFF#8, some .bootload⟩] ++
  [⟨0x11#8, 0xFF#8, none⟩, ⟨0x12#8, 0xFE#8, none⟩, ⟨0x14#8, 0xFC#8, none⟩, ⟨0x18#8, 0xF8#8, none⟩,
   ⟨0x20#8, 0xE0#8, none⟩, ⟨0x40#8, 0xC0#8, none⟩, ⟨0x80#8, 0x80#8, none⟩]

/-- The 24 rows of the space `dec_tag` (42_packet_decode R101 to R118), each with the instruction it stands for on its tag byte. -/
def decRows : List (OpRow (Byte → Instr)) :=
  [⟨0x00#8, 0xFF#8, fun _ => .decQuaternion⟩,
   ⟨0x01#8, 0xFF#8, fun _ => .decAccel⟩,
   ⟨0x02#8, 0xFF#8, fun _ => .decGyro⟩,
   ⟨0x03#8, 0xFF#8, fun _ => .decMag⟩,
   ⟨0x04#8, 0xFF#8, fun _ => .decTemperature⟩,
   ⟨0x05#8, 0xFF#8, fun _ => .decGpio⟩,
   ⟨0x06#8, 0xFF#8, fun _ => .decColor⟩,
   ⟨0x07#8, 0xFF#8, fun _ => .decBlink⟩,
   ⟨0x08#8, 0xFF#8, fun _ => .decIr⟩,
   ⟨0x09#8, 0xFF#8, fun _ => .decStream⟩,
   ⟨0x0A#8, 0xFF#8, fun _ => .decVersion⟩,
   ⟨0x0B#8, 0xFF#8, fun _ => .decDeviceId⟩,
   ⟨0x0C#8, 0xFF#8, fun _ => .decCalibration⟩,
   ⟨0x0D#8, 0xFF#8, fun _ => .decGpioDdr⟩,
   ⟨0x0E#8, 0xFF#8, fun _ => .decGpioPort⟩,
   ⟨0x0F#8, 0xFF#8, fun _ => .decPower⟩,
   ⟨0x10#8, 0xFF#8, fun _ => .decBootload⟩] ++
  [⟨0x11#8, 0xFF#8, .badTag⟩,
   ⟨0x12#8, 0xFE#8, .badTag⟩,
   ⟨0x14#8, 0xFC#8, .badTag⟩,
   ⟨0x18#8, 0xF8#8, .badTag⟩,
   ⟨0x20#8, 0xE0#8, .badTag⟩,
   ⟨0x40#8, 0xC0#8, .badTag⟩,
   ⟨0x80#8, 0x80#8, .badTag⟩]

/-- The 24 rows of the space `enc_tag` (43_packet_encode R131 to R148), each with the instruction it stands for on a request, the
tag byte first and the fields at their offsets of R57. -/
def encRows : List (OpRow (List Byte → Instr)) :=
  [⟨0x00#8, 0xFF#8, fun f => .encQuaternion (wordAt f 1) (wordAt f 5) (wordAt f 9) (wordAt f 13)⟩,
   ⟨0x01#8, 0xFF#8, fun f => .encAccel (halfAt f 1) (halfAt f 3) (halfAt f 5)⟩,
   ⟨0x02#8, 0xFF#8, fun f => .encGyro (halfAt f 1) (halfAt f 3) (halfAt f 5)⟩,
   ⟨0x03#8, 0xFF#8, fun f => .encMag (halfAt f 1) (halfAt f 3) (halfAt f 5)⟩,
   ⟨0x04#8, 0xFF#8, fun f => .encTemperature (wordAt f 1)⟩,
   ⟨0x05#8, 0xFF#8, fun f => .encGpio (byteAt f 1)⟩,
   ⟨0x06#8, 0xFF#8, fun f => .encColor (byteAt f 1) (byteAt f 2) (byteAt f 3)⟩,
   ⟨0x07#8, 0xFF#8, fun f => .encBlink (byteAt f 1) (byteAt f 2) (byteAt f 3)⟩,
   ⟨0x08#8, 0xFF#8, fun f => .encIr (byteAt f 1)⟩,
   ⟨0x09#8, 0xFF#8, fun f => .encStream (byteAt f 1)⟩,
   ⟨0x0A#8, 0xFF#8, fun f => .encVersion (wordAt f 1)⟩,
   ⟨0x0B#8, 0xFF#8, fun f => .encDeviceId (wordAt f 1)⟩,
   ⟨0x0C#8, 0xFF#8, fun f => .encCalibration (wordAt f 1) (wordAt f 5) (wordAt f 9) (wordAt f 13) (wordAt f 17)
      (wordAt f 21)⟩,
   ⟨0x0D#8, 0xFF#8, fun f => .encGpioDdr (byteAt f 1)⟩,
   ⟨0x0E#8, 0xFF#8, fun f => .encGpioPort (byteAt f 1)⟩,
   ⟨0x0F#8, 0xFF#8, fun f => .encPower (byteAt f 1)⟩,
   ⟨0x10#8, 0xFF#8, fun _ => .encBootload⟩] ++
  [⟨0x11#8, 0xFF#8, fun f => .encTagOnly (byteAt f 0)⟩,
   ⟨0x12#8, 0xFE#8, fun f => .encTagOnly (byteAt f 0)⟩,
   ⟨0x14#8, 0xFC#8, fun f => .encTagOnly (byteAt f 0)⟩,
   ⟨0x18#8, 0xF8#8, fun f => .encTagOnly (byteAt f 0)⟩,
   ⟨0x20#8, 0xE0#8, fun f => .encTagOnly (byteAt f 0)⟩,
   ⟨0x40#8, 0xC0#8, fun f => .encTagOnly (byteAt f 0)⟩,
   ⟨0x80#8, 0x80#8, fun f => .encTagOnly (byteAt f 0)⟩]

/-- The classes of the rows of a table that a byte selects. -/
def selectedOps {α : Type} (rows : List (OpRow α)) (b : Byte) : List α :=
  (rows.filter (fun r => r.selects b)).map (fun r => r.op)

/-! ## The host's numbering of a table word -/

/-- `w` as bytes, the least significant first, `n` of them. -/
def wordBytes : Nat → Nat → List Byte
  | 0, _ => []
  | n + 1, w => BitVec.ofNat 8 w :: wordBytes n (w / 256)

/-- The instruction the decoder reads from an 8-bit word of the opcode table. The word is laid out as the input byte stream, the
only stream of bytes this hardware takes in: the space is `rx_byte` (log entry 9: one 8-bit word has up to five rows, one in
each space, and neither `nbits` nor `w` says which). Bits at and above `nbits` are 0, up to the longest instruction (25 bytes,
an encode request). -/
def decodeTableWord (nbits w : Nat) : Option Instr :=
  match decode .rxByte (wordBytes 25 (w % 2 ^ nbits)) with
  | .ok (i, _) => some i
  | .error _ => none

end Sys2Proof
end

