-- ==== Sys2Proof/Machine/State.lean ====
section
/-! DEFINITION. The state of the machine as plain data: one decoder instance (spec 10_state R10), the transmit path's transient
buffers (20_memory R30, 10_state R17), the outputs of the last step (70_reset R190), the host's samples to come, the OPEN
parameter, and the counter of the free values. Also why a step can stop, and the state after reset. -/

namespace Sys2Proof.Machine

/-- A byte-indexed space of 20_memory R30 as a list of (index, byte) pairs in one canonical form, `Memory.wf`. -/
abbrev Memory := List Host.Cell

/-- What an index that the list leaves out reads as. DESIGN CHOICE (log entries 1, 3, 4): the spec gives these bytes no value. -/
abbrev Memory.unlisted : Byte := 0x00#8

/-- The canonical form: indices strictly rising, and no entry that equals what an unlisted index reads as. -/
abbrev Memory.wf (m : Memory) : Prop :=
  List.Pairwise (· < ·) (m.map Prod.fst) ∧ ∀ c ∈ m, c.2 ≠ Memory.unlisted

/-- Every listed index of the space lies below its size (20_memory R30). -/
abbrev Memory.within (m : Memory) (size : Nat) : Prop := ∀ c ∈ m, c.1 < size

/-- 60_exceptions R161: the causes of a silent discard. Internal labels: no output of the hardware shows them (D19). -/
inductive DropCause where
  | overflow
  | badTag
  | badLen
deriving DecidableEq, Repr

/-- One decoder instance (10_state R10, 60_exceptions R170) with the outputs of its last step. -/
structure Decoder where
  /-- the accumulation buffer, indices 0 to 24 (R11) -/
  buf : Memory
  /-- the length counter and write cursor (R12) -/
  len : BitVec 5
  /-- the escape-pending flag (R13) -/
  esc : Bool
  /-- output of the last step: a packet was delivered in it (40_unstuffer R77) -/
  frameReady : Bool
  /-- output of the last step: the packet (40_unstuffer R70, R77) -/
  pkt : Option Packet
  /-- internal: the last step closed a frame (40_unstuffer R78); no output of the hardware -/
  frameClose : Bool
  /-- internal: the last step discarded a frame, and why (60_exceptions R161); no output of the hardware -/
  drop : Option DropCause
deriving DecidableEq, Repr

/-- The transmit path: what exists while one encode step runs (10_state R16, 20_memory R30), and the caller's output buffer. DESIGN
CHOICE (log entry 20): a machine has one such buffer, which all its requests write; the spec does not say whether the buffers that
requests bring (70_reset R189) are the same one. -/
structure Encoder where
  /-- the raw frame under construction, indices 0 to 24 (20_memory R30) -/
  raw : Memory
  /-- its length (43_packet_encode R130 to R148) -/
  rawLen : BitVec 5
  /-- the caller's output buffer, indices 0 to 50 (10_state R17) -/
  out : Memory
  /-- how many bytes the caller's buffer has (10_state R17, 70_reset R184) -/
  outSize : Nat
  /-- the output position, and `tx_len` once the frame is terminated (20_memory R43, 70_reset R190) -/
  pos : BitVec 6
  /-- the last step answered an encode request (the model's own, log entry 6) -/
  encDone : Bool
deriving DecidableEq, Repr

/-- The input ports of one step (70_reset R190). -/
structure PortsIn where
  rst : Bool
  rxValid : Bool
  rxByte : Byte
  encReq : Bool
  encTag : Byte
  encPayload : PayloadPort
deriving DecidableEq, Repr

/-- A step in which the host does nothing. -/
def PortsIn.idle : PortsIn :=
  { rst := false, rxValid := false, rxByte := 0, encReq := false, encTag := 0, encPayload := 0 }

/-- The host resets the instance (70_reset R189). -/
def PortsIn.reset : PortsIn := { PortsIn.idle with rst := true }

/-- The host feeds one byte (70_reset R189). -/
def PortsIn.feed (b : Byte) : PortsIn := { PortsIn.idle with rxValid := true, rxByte := b }

/-- The host asks for one packet to be encoded (70_reset R189, R190). -/
def PortsIn.encode (tag : Byte) (payload : PayloadPort) : PortsIn :=
  { PortsIn.idle with encReq := true, encTag := tag, encPayload := payload }

/-- The whole state. -/
structure State where
  /-- the receive path (00_scope R2) -/
  rx : Decoder
  /-- the transmit path (00_scope R2) -/
  tx : Encoder
  /-- the OPEN parameter (43_packet_encode R130); no step changes it -/
  cfg : Config
  /-- the host's port samples to come, oldest first; one a step (log entry 7) -/
  input : List PortsIn
  /-- the counter of the free values (log entry 8) -/
  fresh : Nat
deriving DecidableEq, Repr

/-- Why the machine stops with a fault. The spec has no fault (00_scope R6); both constructors are an access at an index that
20_memory R30 does not give the space, and can happen only in states outside `Safety.MachineInv`. -/
inductive Fault where
  /-- Raised by `accAppend` when `len` is 26 to 31: `buf` has no such entry (10_state R11, R12). Safe: the model stops. -/
  | bufIndex
  /-- Raised by `emit` when `pos` is 51 to 63: `out` has no such entry (10_state R17). Safe: the model stops. -/
  | outIndex
deriving DecidableEq, Repr

/-- Why the machine gives no meaning. -/
inductive Refusal where
  /-- Raised by `exec` for an instruction that has no meaning yet. Safe. No arm raises it. -/
  | notModelled (mnemonic : String)
  /-- Raised by `emit`, and so by every encode request, when the caller's buffer is shorter than `PACKET_MAX_SIZE`: the spec takes
  the 51 bytes as a precondition and says to refuse a smaller buffer (70_reset R184, U6). Safe: the model stops. -/
  | outputBufferTooSmall
deriving DecidableEq, Repr

/-- A decoder instance right after reset (10_state R23): `len = 0`, `esc = 0`, outputs (0, none). `buf` is unspecified there:
every byte 0 is the model's choice (log entry 1), as are the two internal signals (log entry 2). -/
def Decoder.reset : Decoder :=
  { buf := [], len := 0, esc := false, frameReady := false, pkt := none, frameClose := false, drop := none }

/-- The transmit path before the first encode request (it has no state to reset, 10_state R23): the model's choice
(log entries 3, 4, 5, 6). -/
def Encoder.reset : Encoder :=
  { raw := [], rawLen := 0, out := [], outSize := Config.packetMaxSize, pos := 0, encDone := false }

/-- The machine right after reset, with nothing presented by the host. -/
def State.reset : State :=
  { rx := Decoder.reset, tx := Encoder.reset, cfg := Config.default, input := [], fresh := 0 }

end Sys2Proof.Machine
end

