-- ==== Sys2Proof/Machine/Flags.lean ====
section
/-! DEFINITION. The one flag of the hardware, escape-pending (spec 10_state R13), and the one-bit output `frame_ready`
(40_unstuffer R77). -/

namespace Sys2Proof.Machine

/-- 10_state R13: set escape-pending; only `ESC` does. -/
def Decoder.setEsc (d : Decoder) : Decoder := { d with esc := true }

/-- 10_state R13: clear escape-pending, as every byte but the escape introducer does. -/
def Decoder.clearEsc (d : Decoder) : Decoder := { d with esc := false }

/-- 40_unstuffer R73, R74: the byte an escape code stands for: `escaped` if an escape is pending, else the code itself. -/
def resolveEsc (pending : Bool) (escaped code : Byte) : Byte := if pending then escaped else code

/-- 40_unstuffer R77: `frame_ready` is 1 exactly when a packet is present. -/
def frameReadyOf (answer : Option Packet) : Bool := answer.isSome

end Sys2Proof.Machine
end

