-- ==== Sys2Proof/Machine/Ops.lean ====
section
/-! DEFINITION. The named operations over the three byte-indexed spaces and the state: reading and writing one byte, appending to
the accumulator (spec 20_memory R36), emitting to the output buffer (R43), the silent discard (60_exceptions R165), the answer
of the packet decoder (40_unstuffer R78), reset (70_reset R180), and the start of a step.

TAKING AN EXCEPTION: the hardware has none (60_exceptions R160). Its counterpart is the silent discard, `Decoder.discard`, which
saves nothing and goes nowhere (R165); there is no return operation (R166). -/

namespace Sys2Proof.Machine

/-- What a step or a meaning answers. -/
abbrev Answer (α : Type) := Host.Outcome α Fault Refusal

/-- Go on with the next state, or stop as the first part stopped. -/
def andThen {α β : Type} (o : Answer α) (f : α → Answer β) : Answer β :=
  match o with
  | .next a => f a
  | .fault r => .fault r
  | .refused r => .refused r

/-! ## One byte of a space -/

/-- The byte at an index. -/
def Memory.read : Memory → Nat → Byte
  | [], _ => Memory.unlisted
  | (b, w) :: m, a => if a < b then Memory.unlisted else if a = b then w else Memory.read m a

/-- Put a cell in front, unless it holds what an unlisted index reads as. -/
def Memory.cons (a : Nat) (v : Byte) (m : Memory) : Memory := if v = Memory.unlisted then m else (a, v) :: m

/-- Write one byte, keeping the canonical form. -/
def Memory.write : Memory → Nat → Byte → Memory
  | [], a, v => Memory.cons a v []
  | (b, w) :: m, a, v =>
      if a < b then Memory.cons a v ((b, w) :: m)
      else if a = b then Memory.cons a v m
      else (b, w) :: Memory.write m a v

/-- Write consecutive bytes from an index on, in order. -/
def Memory.writeBytes : Memory → Nat → List Byte → Memory
  | m, _, [] => m
  | m, a, v :: vs => Memory.writeBytes (Memory.write m a v) (a + 1) vs

/-- The bytes at the indices `0 .. n-1`. -/
def Memory.bytes (m : Memory) (n : Nat) : List Byte := (List.range n).map m.read

/-! ## The receive path -/

/-- The outputs of a step that delivers nothing: `(frame_ready = 0, pkt = none)` (40_unstuffer R70, R77), and no internal event. -/
def Decoder.quiet (d : Decoder) : Decoder :=
  { d with frameReady := false, pkt := none, frameClose := false, drop := none }

/-- 60_exceptions R161, R165: a silent discard. Its whole effect is `len <- 0`; the outputs are (0, none). -/
def Decoder.discard (d : Decoder) (c : DropCause) : Decoder :=
  { d with len := 0, frameReady := false, pkt := none, drop := some c }

/-- 20_memory R36, 40_unstuffer R76: `AccAppend(v)`, in a step whose outputs are (0, none). -/
def accAppend (d : Decoder) (v : Byte) : Answer Decoder :=
  if d.len.toNat = Config.maxUnpacked then .next (d.quiet.discard .overflow)
  else if d.len.toNat < Config.maxUnpacked then
    .next { d.quiet with buf := d.buf.write d.len.toNat v, len := d.len + 1 }
  else .fault .bufIndex

/-- 40_unstuffer R78, 42_packet_decode R100: the packet decoder's answer for the closed frame: a packet, or the cause of its
rejection. It writes the outputs and no decoder state. -/
def Decoder.answer (d : Decoder) (r : Except DropCause Packet) : Decoder :=
  match r with
  | .ok p => { d with frameReady := frameReadyOf (some p), pkt := some p, drop := none }
  | .error c => { d with frameReady := frameReadyOf none, pkt := none, drop := some c }

/-- The 25 entries of `buf` after a reset at run time: free values (U2, log entry 8). -/
@[irreducible] def freeBuf (fresh : Nat) : Memory :=
  Memory.writeBytes [] 0 ((List.range Config.maxUnpacked).map (fun i => Config.freeByte fresh (.bufEntry i)))

/-- 70_reset R180, R181: reset of the instance: `len = 0`, `esc = 0`, `buf` unspecified, outputs (0, none). -/
def Decoder.resetEvent (d : Decoder) (fresh : Nat) : Decoder :=
  { d.quiet with buf := freeBuf fresh, len := 0, esc := false }

/-! ## The transmit path -/

/-- 20_memory R43: `Emit(b)`. The caller's buffer must have `PACKET_MAX_SIZE` bytes (70_reset R184). -/
def emit (e : Encoder) (b : Byte) : Answer Encoder :=
  if e.outSize < Config.packetMaxSize then .refused .outputBufferTooSmall
  else if e.pos.toNat < Config.packetMaxSize then
    .next { e with out := e.out.write e.pos.toNat b, pos := e.pos + 1 }
  else .fault .outIndex

/-- 43_packet_encode R131 to R148: the raw frame an `ENC` rule returns. -/
def Encoder.setRaw (e : Encoder) (m : Memory) (n : Nat) : Encoder :=
  { e with raw := m, rawLen := BitVec.ofNat 5 n }

/-- 41_stuffer R91: the raw frame as a byte sequence. -/
def Encoder.rawBytes (e : Encoder) : List Byte := e.raw.bytes e.rawLen.toNat

/-- 41_stuffer R91: `pos <- 0`, at the start of `EmitFrame`. -/
def Encoder.startFrame (e : Encoder) : Encoder := { e with pos := 0, encDone := false }

/-- The encode request is answered: `out[0 .. pos-1]` is its result (41_stuffer R91). -/
def Encoder.finishFrame (e : Encoder) : Encoder := { e with encDone := true }

/-- 41_stuffer R91: the result `out[0 .. pos-1]` as a byte sequence. -/
def Encoder.result (e : Encoder) : List Byte := e.out.bytes e.pos.toNat

/-! ## The state -/

/-- Run a receive-path operation; the transmit path is not touched (00_scope R2). -/
def onRx (s : State) (o : Answer Decoder) : Answer State := andThen o (fun d => .next { s with rx := d })

/-- Run a transmit-path operation; the receive path is not touched (00_scope R2). -/
def onTx (s : State) (o : Answer Encoder) : Answer State := andThen o (fun e => .next { s with tx := e })

/-- 43_packet_encode R130: is this tag in `ENC_HANDLED`? -/
def State.handles (s : State) (tag : Byte) : Bool :=
  if h : tag.toNat < 16 then s.cfg.encHandled[tag.toNat] else false

/-- The start of every step: the outputs of the step before are over (70_reset R185), and the free values are new ones. -/
def State.beginStep (s : State) : State :=
  { s with rx := s.rx.quiet, tx := { s.tx with encDone := false }, fresh := s.fresh + 1 }

end Sys2Proof.Machine
end

