-- ==== Sys2Proof/Machine/Operands.lean ====
section
/-! DEFINITION. The operand forms: `MemRead` and `MemWrite` of 1, 2 and 4 bytes at a constant offset of a raw frame, most
significant byte first (spec 20_memory R31, 30_encoding R58), and the payload port (70_reset R190). No alignment (20_memory
R34). -/

namespace Sys2Proof.Machine

/-- R31: `MemRead(a, 1)`. -/
def memRead1 (m : Memory) (a : Nat) : Byte := m.read a

/-- R31: `MemRead(a, 2)`. -/
def memRead2 (m : Memory) (a : Nat) : Half := be16 (m.read a) (m.read (a + 1))

/-- R31: `MemRead(a, 4)`. -/
def memRead4 (m : Memory) (a : Nat) : Word := be32 (m.read a) (m.read (a + 1)) (m.read (a + 2)) (m.read (a + 3))

/-- R31: `MemWrite(a, 1, v)`. -/
def memWrite1 (m : Memory) (a : Nat) (v : Byte) : Memory := m.write a v

/-- R31: `MemWrite(a, 2, v)`. -/
def memWrite2 (m : Memory) (a : Nat) (v : Half) : Memory := m.writeBytes a (bytes16 v)

/-- R31: `MemWrite(a, 4, v)`. -/
def memWrite4 (m : Memory) (a : Nat) (v : Word) : Memory := m.writeBytes a (bytes32 v)

/-- 70_reset R190: the byte of a payload port at raw-frame offset `off` (1 to 24), bits `8(25-off)-1 : 8(24-off)`. -/
def portByte (v : PayloadPort) (off : Nat) : Byte := v.extractLsb' (8 * (24 - off)) 8

/-- The 24 bytes of a payload port, offset 1 first. -/
def portBytes (v : PayloadPort) : List Byte := (List.range 24).map (fun k => portByte v (k + 1))

/-- A payload port from its bytes, the first one most significant (70_reset R190). -/
def portOfBytes (bs : List Byte) : PayloadPort :=
  BitVec.ofNat 192 (bs.foldl (fun n b => n * 256 + b.toNat) 0)

end Sys2Proof.Machine
end

