-- ==== Sys2Proof/Machine/PacketEncode.lean ====
section
/-! DEFINITION. The packet encoder (spec 43_packet_encode): the 17 per-tag operations that build the raw frame, and the tag-only
frame. Framing it is `encodeInstr` in Machine/Requests.lean (R130). -/

namespace Sys2Proof.Machine

/-- The raw frame with its tag at offset 0 and nothing else written: `raw` exists only inside one encode step (20_memory R30). -/
def rawStart (tag : Byte) : Memory := Memory.write [] 0 tag

/-- R148: the tag-only frame. -/
def tagOnly (tag : Byte) (s : State) : Answer State :=
  .next { s with tx := s.tx.setRaw (rawStart tag) 1 }

/-- R130: the full raw frame of a kind if its tag is in `ENC_HANDLED`, else the tag-only frame. `raw` is the frame with its
payload written. -/
def encodeAs (k : Kind) (raw : Memory) (s : State) : Answer State :=
  if s.handles k.tag then .next { s with tx := s.tx.setRaw raw k.size } else tagOnly k.tag s

/-- R131. -/
def execEncQuaternion (q0 q1 q2 q3 : Word) (s : State) : Answer State :=
  encodeAs .quaternion (memWrite4 (memWrite4 (memWrite4 (memWrite4 (rawStart 0x00#8) 1 q0) 5 q1) 9 q2) 13 q3) s

/-- R132. -/
def execEncAccel (a0 a1 a2 : Half) (s : State) : Answer State :=
  encodeAs .accel (memWrite2 (memWrite2 (memWrite2 (rawStart 0x01#8) 1 a0) 3 a1) 5 a2) s

/-- R133. -/
def execEncGyro (g0 g1 g2 : Half) (s : State) : Answer State :=
  encodeAs .gyro (memWrite2 (memWrite2 (memWrite2 (rawStart 0x02#8) 1 g0) 3 g1) 5 g2) s

/-- R134. -/
def execEncMag (m0 m1 m2 : Half) (s : State) : Answer State :=
  encodeAs .mag (memWrite2 (memWrite2 (memWrite2 (rawStart 0x03#8) 1 m0) 3 m1) 5 m2) s

/-- R135. -/
def execEncTemperature (t : Word) (s : State) : Answer State :=
  encodeAs .temperature (memWrite4 (rawStart 0x04#8) 1 t) s

/-- R136. -/
def execEncGpio (v : Byte) (s : State) : Answer State := encodeAs .gpio (memWrite1 (rawStart 0x05#8) 1 v) s

/-- R137: index order, no byte-order conversion. -/
def execEncColor (c0 c1 c2 : Byte) (s : State) : Answer State :=
  encodeAs .color (memWrite1 (memWrite1 (memWrite1 (rawStart 0x06#8) 1 c0) 2 c1) 3 c2) s

/-- R138: index order, no byte-order conversion. -/
def execEncBlink (c0 c1 c2 : Byte) (s : State) : Answer State :=
  encodeAs .blink (memWrite1 (memWrite1 (memWrite1 (rawStart 0x07#8) 1 c0) 2 c1) 3 c2) s

/-- R139. -/
def execEncIr (v : Byte) (s : State) : Answer State := encodeAs .ir (memWrite1 (rawStart 0x08#8) 1 v) s

/-- R140. -/
def execEncStream (v : Byte) (s : State) : Answer State := encodeAs .stream (memWrite1 (rawStart 0x09#8) 1 v) s

/-- R141 (D9). -/
def execEncVersion (w : Word) (s : State) : Answer State := encodeAs .version (memWrite4 (rawStart 0x0A#8) 1 w) s

/-- R142 (D9). -/
def execEncDeviceId (w : Word) (s : State) : Answer State := encodeAs .deviceId (memWrite4 (rawStart 0x0B#8) 1 w) s

/-- R143. -/
def execEncCalibration (k0 k1 k2 k3 k4 k5 : Word) (s : State) : Answer State :=
  encodeAs .calibration
    (memWrite4 (memWrite4 (memWrite4 (memWrite4 (memWrite4 (memWrite4 (rawStart 0x0C#8) 1 k0) 5 k1) 9 k2) 13 k3) 17 k4)
      21 k5) s

/-- R144. -/
def execEncGpioDdr (v : Byte) (s : State) : Answer State := encodeAs .gpioDdr (memWrite1 (rawStart 0x0D#8) 1 v) s

/-- R145. -/
def execEncGpioPort (v : Byte) (s : State) : Answer State := encodeAs .gpioPort (memWrite1 (rawStart 0x0E#8) 1 v) s

/-- R146. -/
def execEncPower (v : Byte) (s : State) : Answer State := encodeAs .power (memWrite1 (rawStart 0x0F#8) 1 v) s

/-- R147: no payload, so `ENC_HANDLED` makes no difference (R130). -/
def execEncBootload (s : State) : Answer State :=
  .next { s with tx := s.tx.setRaw (rawStart 0x10#8) 1 }

/-- R148. -/
def execEncTagOnly (tag : Byte) (s : State) : Answer State := tagOnly tag s

end Sys2Proof.Machine
end

