-- ==== Sys2Proof/Machine/Stuffer.lean ====
section
/-! DEFINITION. The stuffer (spec 41_stuffer): the three operations a raw byte selects, and the terminator. Each emits its bytes
at the output position. -/

namespace Sys2Proof.Machine

/-- R86: `STUFF.END`: a raw delimiter becomes `DB DC`. -/
def execStuffEnd (s : State) : Answer State :=
  onTx s (andThen (emit s.tx Config.escIntro) (fun e => emit e Config.escDelim))

/-- R87: `STUFF.ESC`: a raw escape introducer becomes `DB DD`. -/
def execStuffEsc (s : State) : Answer State :=
  onTx s (andThen (emit s.tx Config.escIntro) (fun e => emit e Config.escEsc))

/-- R88: `STUFF.PASS(r)`: any other raw byte passes. -/
def execStuffPass (r : Byte) (s : State) : Answer State := onTx s (emit s.tx r)

/-- R90: `TERMINATE`: one delimiter, not escaped. -/
def execTerminate (s : State) : Answer State := onTx s (emit s.tx Config.delim)

end Sys2Proof.Machine
end

