-- ==== Sys2Proof/Machine/PacketDecode.lean ====
section
/-! DEFINITION. The packet decoder (spec 42_packet_decode): validation, the 17 per-tag decode operations, and the two rejections.
It is combinational: it reads the closed frame `buf[0 .. len-1]` and writes the outputs only (R100). -/

namespace Sys2Proof.Machine

/-! ## The packet a validated frame is (R101 to R117) -/

/-- R101. -/
def readQuaternion (m : Memory) : Packet := .quaternion (memRead4 m 1) (memRead4 m 5) (memRead4 m 9) (memRead4 m 13)

/-- R102. -/
def readAccel (m : Memory) : Packet := .accel (memRead2 m 1) (memRead2 m 3) (memRead2 m 5)

/-- R103. -/
def readGyro (m : Memory) : Packet := .gyro (memRead2 m 1) (memRead2 m 3) (memRead2 m 5)

/-- R104. -/
def readMag (m : Memory) : Packet := .mag (memRead2 m 1) (memRead2 m 3) (memRead2 m 5)

/-- R105. -/
def readTemperature (m : Memory) : Packet := .temperature (memRead4 m 1)

/-- R106. -/
def readGpio (m : Memory) : Packet := .gpio (memRead1 m 1)

/-- R107: raw copy in wire order. -/
def readColor (m : Memory) : Packet := .color (memRead1 m 1) (memRead1 m 2) (memRead1 m 3)

/-- R108: raw copy in wire order. -/
def readBlink (m : Memory) : Packet := .blink (memRead1 m 1) (memRead1 m 2) (memRead1 m 3)

/-- R109. -/
def readIr (m : Memory) : Packet := .ir (memRead1 m 1)

/-- R110. -/
def readStream (m : Memory) : Packet := .stream (memRead1 m 1)

/-- R111 (D9). -/
def readVersion (m : Memory) : Packet := .version (memRead4 m 1)

/-- R112 (D9). -/
def readDeviceId (m : Memory) : Packet := .deviceId (memRead4 m 1)

/-- R113. -/
def readCalibration (m : Memory) : Packet :=
  .calibration (memRead4 m 1) (memRead4 m 5) (memRead4 m 9) (memRead4 m 13) (memRead4 m 17) (memRead4 m 21)

/-- R114. -/
def readGpioDdr (m : Memory) : Packet := .gpioDdr (memRead1 m 1)

/-- R115. -/
def readGpioPort (m : Memory) : Packet := .gpioPort (memRead1 m 1)

/-- R116. -/
def readPower (m : Memory) : Packet := .power (memRead1 m 1)

/-- R117: the hardware delivers the packet and does not act on it (60_exceptions R171). -/
def readBootload (_ : Memory) : Packet := .bootload

/-- The decode operation of a kind (R100: "selected by tag"). -/
def readKind : Kind → Memory → Packet
  | .quaternion => readQuaternion
  | .accel => readAccel
  | .gyro => readGyro
  | .mag => readMag
  | .temperature => readTemperature
  | .gpio => readGpio
  | .color => readColor
  | .blink => readBlink
  | .ir => readIr
  | .stream => readStream
  | .version => readVersion
  | .deviceId => readDeviceId
  | .calibration => readCalibration
  | .gpioDdr => readGpioDdr
  | .gpioPort => readGpioPort
  | .power => readPower
  | .bootload => readBootload

/-! ## Validation and dispatch -/

/-- R119: exact length, or `BAD_LEN`. -/
def checkLen (k : Kind) (len : Nat) (p : Packet) : Except DropCause Packet :=
  if len = k.size then .ok p else .error .badLen

/-- R100: `DecodePacket(buf, len)`: the tag test, then the length test, then the decode operation of the tag. -/
def decodePacket (buf : Memory) (len : Nat) : Except DropCause Packet :=
  match Kind.ofTag? (buf.read 0) with
  | none => .error .badTag
  | some k => checkLen k len (readKind k buf)

/-! ## The instructions of the space `dec_tag` -/

/-- A `DEC` row on the closed frame in `buf`: its packet if `len = SIZE[tag]`, else the silent discard `BAD_LEN` (R119). -/
def decodeAs (k : Kind) (p : Packet) (s : State) : Answer State :=
  .next { s with rx := s.rx.answer (checkLen k s.rx.len.toNat p) }

/-- R101. -/
def execDecQuaternion (s : State) : Answer State := decodeAs .quaternion (readQuaternion s.rx.buf) s

/-- R102. -/
def execDecAccel (s : State) : Answer State := decodeAs .accel (readAccel s.rx.buf) s

/-- R103. -/
def execDecGyro (s : State) : Answer State := decodeAs .gyro (readGyro s.rx.buf) s

/-- R104. -/
def execDecMag (s : State) : Answer State := decodeAs .mag (readMag s.rx.buf) s

/-- R105. -/
def execDecTemperature (s : State) : Answer State := decodeAs .temperature (readTemperature s.rx.buf) s

/-- R106. -/
def execDecGpio (s : State) : Answer State := decodeAs .gpio (readGpio s.rx.buf) s

/-- R107. -/
def execDecColor (s : State) : Answer State := decodeAs .color (readColor s.rx.buf) s

/-- R108. -/
def execDecBlink (s : State) : Answer State := decodeAs .blink (readBlink s.rx.buf) s

/-- R109. -/
def execDecIr (s : State) : Answer State := decodeAs .ir (readIr s.rx.buf) s

/-- R110. -/
def execDecStream (s : State) : Answer State := decodeAs .stream (readStream s.rx.buf) s

/-- R111. -/
def execDecVersion (s : State) : Answer State := decodeAs .version (readVersion s.rx.buf) s

/-- R112. -/
def execDecDeviceId (s : State) : Answer State := decodeAs .deviceId (readDeviceId s.rx.buf) s

/-- R113. -/
def execDecCalibration (s : State) : Answer State := decodeAs .calibration (readCalibration s.rx.buf) s

/-- R114. -/
def execDecGpioDdr (s : State) : Answer State := decodeAs .gpioDdr (readGpioDdr s.rx.buf) s

/-- R115. -/
def execDecGpioPort (s : State) : Answer State := decodeAs .gpioPort (readGpioPort s.rx.buf) s

/-- R116. -/
def execDecPower (s : State) : Answer State := decodeAs .power (readPower s.rx.buf) s

/-- R117. -/
def execDecBootload (s : State) : Answer State := decodeAs .bootload (readBootload s.rx.buf) s

/-- R118: `BAD_TAG`: no packet, whatever the length and whatever the tag's value. -/
def execBadTag (_tag : Byte) (s : State) : Answer State :=
  .next { s with rx := s.rx.answer (.error .badTag) }

end Sys2Proof.Machine
end

