-- ==== Sys2Proof/Machine/Unstuffer.lean ====
section
/-! DEFINITION. The un-stuffer (spec 40_unstuffer): the five operations an input byte selects, each one whole step of the receive
path with its outputs. -/

namespace Sys2Proof.Machine

/-- R71, R78: the frame-boundary part of `END`: with an accumulation, the event `frame_close` and the packet decoder's answer;
without one, nothing is parsed (R65, 60_exceptions R163). -/
def Decoder.closeFrame (d : Decoder) : Decoder :=
  if 0 < d.len.toNat then { d.quiet with frameClose := true }.answer (decodePacket d.buf d.len.toNat) else d.quiet

/-- R71: `END`: close the frame, then reset the accumulator regardless of the parse. A pending escape is simply cleared. -/
def execEndFrame (s : State) : Answer State :=
  .next { s with rx := { s.rx.closeFrame with len := 0 }.clearEsc }

/-- R72: `ESC`: set escape-pending; append nothing. -/
def execEsc (s : State) : Answer State :=
  .next { s with rx := s.rx.quiet.setEsc }

/-- R73: `ESC_END`. -/
def execEscEnd (s : State) : Answer State :=
  onRx s (andThen (accAppend s.rx (resolveEsc s.rx.esc Config.delim Config.escDelim)) (fun d => .next d.clearEsc))

/-- R74: `ESC_ESC`. -/
def execEscEsc (s : State) : Answer State :=
  onRx s (andThen (accAppend s.rx (resolveEsc s.rx.esc Config.escIntro Config.escEsc)) (fun d => .next d.clearEsc))

/-- R75: `LIT(b)`. -/
def execLit (b : Byte) (s : State) : Answer State :=
  onRx s (andThen (accAppend s.rx b) (fun d => .next d.clearEsc))

end Sys2Proof.Machine
end

