-- ==== Sys2Proof/Machine/Dispatch.lean ====
section
/-! DEFINITION. The one dispatch on the instruction: one arm per constructor, each a direct call of its meaning. -/

namespace Sys2Proof.Machine

def exec (i : Instr) (s : State) : Host.Outcome State Fault Refusal :=
  match i with
  | .endFrame => Sys2Proof.Machine.execEndFrame s
  | .esc => Sys2Proof.Machine.execEsc s
  | .escEnd => Sys2Proof.Machine.execEscEnd s
  | .escEsc => Sys2Proof.Machine.execEscEsc s
  | .lit b => Sys2Proof.Machine.execLit b s
  | .stuffEnd => Sys2Proof.Machine.execStuffEnd s
  | .stuffEsc => Sys2Proof.Machine.execStuffEsc s
  | .stuffPass r => Sys2Proof.Machine.execStuffPass r s
  | .terminate => Sys2Proof.Machine.execTerminate s
  | .decQuaternion => Sys2Proof.Machine.execDecQuaternion s
  | .decAccel => Sys2Proof.Machine.execDecAccel s
  | .decGyro => Sys2Proof.Machine.execDecGyro s
  | .decMag => Sys2Proof.Machine.execDecMag s
  | .decTemperature => Sys2Proof.Machine.execDecTemperature s
  | .decGpio => Sys2Proof.Machine.execDecGpio s
  | .decColor => Sys2Proof.Machine.execDecColor s
  | .decBlink => Sys2Proof.Machine.execDecBlink s
  | .decIr => Sys2Proof.Machine.execDecIr s
  | .decStream => Sys2Proof.Machine.execDecStream s
  | .decVersion => Sys2Proof.Machine.execDecVersion s
  | .decDeviceId => Sys2Proof.Machine.execDecDeviceId s
  | .decCalibration => Sys2Proof.Machine.execDecCalibration s
  | .decGpioDdr => Sys2Proof.Machine.execDecGpioDdr s
  | .decGpioPort => Sys2Proof.Machine.execDecGpioPort s
  | .decPower => Sys2Proof.Machine.execDecPower s
  | .decBootload => Sys2Proof.Machine.execDecBootload s
  | .badTag tag => Sys2Proof.Machine.execBadTag tag s
  | .encQuaternion q0 q1 q2 q3 => Sys2Proof.Machine.execEncQuaternion q0 q1 q2 q3 s
  | .encAccel a0 a1 a2 => Sys2Proof.Machine.execEncAccel a0 a1 a2 s
  | .encGyro g0 g1 g2 => Sys2Proof.Machine.execEncGyro g0 g1 g2 s
  | .encMag m0 m1 m2 => Sys2Proof.Machine.execEncMag m0 m1 m2 s
  | .encTemperature t => Sys2Proof.Machine.execEncTemperature t s
  | .encGpio v => Sys2Proof.Machine.execEncGpio v s
  | .encColor c0 c1 c2 => Sys2Proof.Machine.execEncColor c0 c1 c2 s
  | .encBlink c0 c1 c2 => Sys2Proof.Machine.execEncBlink c0 c1 c2 s
  | .encIr v => Sys2Proof.Machine.execEncIr v s
  | .encStream v => Sys2Proof.Machine.execEncStream v s
  | .encVersion w => Sys2Proof.Machine.execEncVersion w s
  | .encDeviceId w => Sys2Proof.Machine.execEncDeviceId w s
  | .encCalibration k0 k1 k2 k3 k4 k5 => Sys2Proof.Machine.execEncCalibration k0 k1 k2 k3 k4 k5 s
  | .encGpioDdr v => Sys2Proof.Machine.execEncGpioDdr v s
  | .encGpioPort v => Sys2Proof.Machine.execEncGpioPort v s
  | .encPower v => Sys2Proof.Machine.execEncPower v s
  | .encBootload => Sys2Proof.Machine.execEncBootload s
  | .encTagOnly tag => Sys2Proof.Machine.execEncTagOnly tag s

end Sys2Proof.Machine
end

