-- ==== Sys2Proof/Machine/Requests.lean ====
section
/-! DEFINITION. The composites a step runs: `FEED` (spec 40_unstuffer R70), `STUFF` (41_stuffer R85), `EmitFrame` (R91), `ENCODE`
(43_packet_encode R130), and one port sample (70_reset R189, R190). Each runs instructions through `exec`. -/

namespace Sys2Proof.Machine

/-- R70: `FEED(b)`: dispatch on the byte alone. -/
def feed (b : Byte) (s : State) : Answer State := exec (decodeRx b) s

/-- R85: `STUFF(r)`: dispatch on the raw byte alone. -/
def stuff (r : Byte) (s : State) : Answer State := exec (decodeTx r) s

/-- R91: `STUFF` of every raw byte in order. -/
def stuffAll : List Byte → State → Answer State
  | [], s => .next s
  | r :: rs, s => andThen (stuff r s) (stuffAll rs)

/-- R91: `EmitFrame(raw)` of the raw frame under construction: from `pos = 0`, every raw byte stuffed, then the terminator. -/
def emitFrame (s : State) : Answer State :=
  andThen (stuffAll s.tx.rawBytes { s with tx := s.tx.startFrame }) (fun s1 =>
    andThen (exec .terminate s1) (fun s2 => .next { s2 with tx := s2.tx.finishFrame }))

/-- R130: one whole encode step: the `ENC` instruction builds the raw frame, `EmitFrame` sends it out. -/
def encodeInstr (i : Instr) (s : State) : Answer State := andThen (exec i s) emitFrame

/-- R130: `ENCODE(p)` of a typed packet. -/
def encodePacket (p : Packet) (s : State) : Answer State := encodeInstr p.toEnc s

/-- R190: an encode request at the ports: an 8-bit tag and the 192 payload bits. -/
def encodeRequest (tag : Byte) (payload : PayloadPort) (s : State) : Answer State :=
  encodeInstr (decodeEnc (tag :: portBytes payload)) s

/-- R190: the receive path's part of a port sample: reset wins over a byte; without either the state holds. -/
def rxSample (p : PortsIn) (s : State) : Answer State :=
  if p.rst then .next { s with rx := s.rx.resetEvent s.fresh }
  else if p.rxValid then feed p.rxByte s
  else .next s

/-- R190: the transmit path's part of a port sample. -/
def txSample (p : PortsIn) (s : State) : Answer State :=
  if p.encReq then encodeRequest p.encTag p.encPayload s else .next s

/-- One port sample. The two paths share no state, so their order does not matter (20_memory R40). -/
def transact (p : PortsIn) (s : State) : Answer State := andThen (rxSample p s) (txSample p)

/-- One step: the oldest of the host's samples, or an idle one when none is left. -/
def sampleStep (s : State) : Answer State :=
  match s.input with
  | [] => transact PortsIn.idle s.beginStep
  | p :: rest => transact p { s with input := rest }.beginStep

/-- Place an input byte where the next step takes it. -/
def placeByte (s : State) (w : Nat) : State := { s with input := PortsIn.feed (BitVec.ofNat 8 w) :: s.input }

end Sys2Proof.Machine
end

