-- ==== Sys2Proof/Machine/Step.lean ====
section
/-! DEFINITION. One step of the machine (spec 70_reset R187), and how the host places a table word where the next step takes it. -/

namespace Sys2Proof.Machine

/-- One step: one port sample, untimed and atomic (20_memory R35, 70_reset R187). -/
def step (s : State) : Host.Outcome State Fault Refusal := sampleStep s

/-- The word's byte as the host's next sample: the machine fetches nothing (20_memory R30), a byte is presented to it. An input
byte is the whole of an instruction of `rx_byte`, so only the first byte of the word, with the bits at and above `nbits` zero,
is placed (log entries 7, 9). -/
def State.withFetchWord (s : State) (nbits w : Nat) : State := placeByte s (w % 2 ^ nbits)

end Sys2Proof.Machine
end

