-- ==== Sys2Proof/Machine/Instances.lean ====
section
/-! DEFINITION. Several instances (spec 60_exceptions R170): the product of copies of the single-instance machine, each stepped by
its own stream; no state is shared. The free values are one function for all of them (log entry 19). -/

namespace Sys2Proof.Machine

/-- A system of instances. -/
abbrev System := List State

/-- One step of instance `k`; a system without that instance does nothing (log entry 14). DESIGN CHOICE (log entry 21): where the
step of instance `k` is refused or faults, the whole system stops with it; the spec does not say what the others do then. -/
def System.stepAt (k : Nat) (sys : System) : Answer System :=
  match sys[k]? with
  | none => .next sys
  | some s => andThen (step s) (fun t => .next (sys.set k t))

/-- The steps of a system in the order the list names the instances: one interleaving. -/
def System.run : List Nat → System → Answer System
  | [], sys => .next sys
  | k :: ks, sys => andThen (System.stepAt k sys) (System.run ks)

/-- `n` steps of one machine on its own. -/
def stepN : Nat → State → Answer State
  | 0, s => .next s
  | n + 1, s => andThen (step s) (stepN n)

end Sys2Proof.Machine
end

