-- ==== Sys2Proof/Machine/Ports.lean ====
section
/-! DEFINITION. The output ports of a step as spec 70_reset R190 lays them out, a view of the state after the step. What the spec
leaves open there (U3, U7, U8) is a free value. -/

namespace Sys2Proof.Machine

/-- The output ports (R190). -/
structure PortsOut where
  frameReady : Bool
  pktTag : Byte
  pktPayload : PayloadPort
  txLen : BitVec 6
  txData : List Byte
deriving DecidableEq, Repr

/-- R190: `pkt_tag`. -/
def pktTagPort (s : State) : Byte :=
  match s.rx.pkt with
  | some p => p.kind.tag
  | none => Config.freeByte s.fresh .pktTag

/-- R190: byte `k` (0 to 23) of `pkt_payload`: the payload byte at offset `k + 1` of the frame, or free beyond the payload. -/
def pktPayloadByte (s : State) (k : Nat) : Byte :=
  match s.rx.pkt with
  | some p => p.payload.getD k (Config.freeByte s.fresh (.pktPayload k))
  | none => Config.freeByte s.fresh (.pktPayload k)

/-- R190: `pkt_payload`. -/
def pktPayloadPort (s : State) : PayloadPort := portOfBytes ((List.range 24).map (pktPayloadByte s))

/-- R190: `tx_len`. -/
def txLenPort (s : State) : BitVec 6 :=
  if s.tx.encDone then s.tx.pos else (Config.freeByte s.fresh .txLen).truncate 6

/-- R190: entry `k` of `tx_data`; at `tx_len` and above it is free (U3). -/
def txDataByte (s : State) (k : Nat) : Byte :=
  if s.tx.encDone ∧ k < s.tx.pos.toNat then s.tx.out.read k else Config.freeByte s.fresh (.txData k)

/-- The output ports after a step. -/
def State.ports (s : State) : PortsOut :=
  { frameReady := s.rx.frameReady
    pktTag := pktTagPort s
    pktPayload := pktPayloadPort s
    txLen := txLenPort s
    txData := (List.range Config.packetMaxSize).map (txDataByte s) }

end Sys2Proof.Machine
end

