-- ==== Sys2Proof/Machine/Run.lean ====
section
/-! DEFINITION. A run of the receive path as spec 70_reset R188 defines it: the outputs of every step and the final state. -/

namespace Sys2Proof.Machine

/-- The outputs of one receive step (40_unstuffer R70). -/
abbrev RxOutput := Bool × Option Packet

/-- What a step delivered. -/
def Decoder.output (d : Decoder) : RxOutput := (d.frameReady, d.pkt)

/-- `FEED*(s)` (30_encoding R64): feed the bytes in order; the final state and the output of each step. -/
def feedAll : List Byte → State → Answer (State × List RxOutput)
  | [], s => .next (s, [])
  | b :: bs, s =>
      andThen (feed b s) (fun s1 =>
        andThen (feedAll bs s1) (fun r => .next (r.1, s1.rx.output :: r.2)))

end Sys2Proof.Machine
end

