-- ==== Sys2Proof/Safety.lean ====
section
/-! DEFINITION. The terms claims are stated in: the invariant of the machine, the derived operations `Escape` and `DeEscape` (spec
41_stuffer R89, 40_unstuffer R79), wire frames (30_encoding R52), and what a step leaves unchanged. -/

namespace Sys2Proof.Safety

open Sys2Proof.Machine

/-! ## The invariant -/

/-- The receive path: `buf` is in canonical form inside its 25 indices, `len` is at most 25 (10_state R25 (a)), `frame_ready` is 1
exactly when a packet is present (40_unstuffer R77), and a step that delivers a packet discards none. -/
abbrev RxInv (d : Decoder) : Prop :=
  d.buf.wf ∧ d.buf.within Config.maxUnpacked ∧ d.len.toNat ≤ Config.maxUnpacked ∧
    d.frameReady = d.pkt.isSome ∧ (d.frameReady = true → d.drop = none)

/-- The transmit path: both buffers are in canonical form inside their indices, the raw frame has at most 25 bytes, `pos` never
passes 51 (20_memory R43), and an answered request has 2 bytes or more (43_packet_encode R149). -/
abbrev TxInv (e : Encoder) : Prop :=
  e.raw.wf ∧ e.raw.within Config.maxUnpacked ∧ e.rawLen.toNat ≤ Config.maxUnpacked ∧
    e.out.wf ∧ e.out.within Config.packetMaxSize ∧ e.pos.toNat ≤ Config.packetMaxSize ∧
    (e.encDone = true → 2 ≤ e.pos.toNat)

/-- The invariant of the machine. -/
abbrev MachineInv (s : State) : Prop := RxInv s.rx ∧ TxInv s.tx

/-- 70_reset R184: the caller's output buffer has the required size. -/
abbrev BufferOk (s : State) : Prop := Config.packetMaxSize ≤ s.tx.outSize

/-! ## The derived operations -/

/-- 41_stuffer R85 to R88: the image of one raw byte. -/
def escapeByte (r : Byte) : List Byte :=
  if r = 0xC0#8 then [0xDB#8, 0xDC#8] else if r = 0xDB#8 then [0xDB#8, 0xDD#8] else [r]

/-- 41_stuffer R89: `Escape(s)`. -/
def escape : List Byte → List Byte
  | [] => []
  | r :: rs => escapeByte r ++ escape rs

/-- 40_unstuffer R79: the loop of `DeEscape`, with its flag `e`. -/
def deEscapeFrom : Bool → List Byte → List Byte
  | _, [] => []
  | e, b :: bs =>
      if b = 0xDB#8 then deEscapeFrom true bs
      else if b = 0xDC#8 then (if e then 0xC0#8 else 0xDC#8) :: deEscapeFrom false bs
      else if b = 0xDD#8 then (if e then 0xDB#8 else 0xDD#8) :: deEscapeFrom false bs
      else b :: deEscapeFrom false bs

/-- 40_unstuffer R79: `DeEscape(s)`. -/
def deEscape (s : List Byte) : List Byte := deEscapeFrom false s

/-- 30_encoding R52: the wire frame of a raw frame: its stuffed image and one unescaped delimiter. -/
def wireFrame (raw : List Byte) : List Byte := escape raw ++ [0xC0#8]

/-- The escape-pending flag after a byte sequence (10_state R13): set exactly by a last byte that is the escape introducer. -/
def pendingAfter (esc : Bool) (bs : List Byte) : Bool :=
  match bs.getLast? with
  | none => esc
  | some b => b == 0xDB#8

/-- 00_scope section 10: the closed frame, `buf[0 .. len-1]`. -/
def closedFrame (d : Decoder) : List Byte := d.buf.bytes d.len.toNat

/-- 43_packet_encode R130: the request is answered with the full raw frame. -/
def emitsPayload (s : State) (p : Packet) : Bool := s.handles p.kind.tag || p.kind == .bootload

/-! ## Frames: what stays unchanged -/

/-- What a `DEC` instruction or `BAD_TAG` leaves unchanged: the decoder state, the internal event, and everything else but the
outputs (42_packet_decode R100). -/
abbrev OnlyOutputs (s t : State) : Prop :=
  t.tx = s.tx ∧ t.cfg = s.cfg ∧ t.input = s.input ∧ t.fresh = s.fresh ∧
    t.rx.buf = s.rx.buf ∧ t.rx.len = s.rx.len ∧ t.rx.esc = s.rx.esc ∧ t.rx.frameClose = s.rx.frameClose

/-- Everything but the receive path is unchanged. -/
abbrev OnlyRx (s t : State) : Prop := t.tx = s.tx ∧ t.cfg = s.cfg ∧ t.input = s.input ∧ t.fresh = s.fresh

/-- Everything but the transmit path is unchanged. -/
abbrev OnlyTx (s t : State) : Prop := t.rx = s.rx ∧ t.cfg = s.cfg ∧ t.input = s.input ∧ t.fresh = s.fresh

/-- Every byte of the accumulator reads as before. -/
abbrev SameBuf (s t : State) : Prop := ∀ a, t.rx.buf.read a = s.rx.buf.read a

/-- The decoder state (10_state R10) is unchanged. -/
abbrev SameDecoder (s t : State) : Prop := t.rx.buf = s.rx.buf ∧ t.rx.len = s.rx.len ∧ t.rx.esc = s.rx.esc

/-- The outputs of a step that delivers nothing (40_unstuffer R70). -/
abbrev Silent (t : State) : Prop := t.rx.frameReady = false ∧ t.rx.pkt = none

/-- A frame is rejected: no packet, and the internal label of the discard (60_exceptions R161). -/
abbrev Rejects (t : State) (c : DropCause) : Prop := Silent t ∧ t.rx.drop = some c

/-- The outputs of a step that delivers `p` (40_unstuffer R77). -/
abbrev Delivers (t : State) (p : Packet) : Prop :=
  t.rx.frameReady = true ∧ t.rx.pkt = some p ∧ t.rx.drop = none

/-- The transmit path but for `raw` and its length is unchanged, and so is everything else. -/
abbrev OnlyRaw (s t : State) : Prop :=
  OnlyTx s t ∧ (∀ a, t.tx.out.read a = s.tx.out.read a) ∧ t.tx.outSize = s.tx.outSize ∧ t.tx.pos = s.tx.pos ∧
    t.tx.encDone = s.tx.encDone

/-- Everything but the output buffer and its position is unchanged. -/
abbrev OnlyOut (s t : State) : Prop :=
  OnlyTx s t ∧ t.tx.raw = s.tx.raw ∧ t.tx.rawLen = s.tx.rawLen ∧ t.tx.outSize = s.tx.outSize ∧ t.tx.encDone = s.tx.encDone

/-- `t` is `s` with the bytes `bs` emitted at `pos` (20_memory R43): they stand there in order, every other index of `out` reads
as before, and `pos` is past them. -/
abbrev Emitted (s t : State) (bs : List Byte) : Prop :=
  t.tx.pos.toNat = s.tx.pos.toNat + bs.length ∧
    ∀ a, t.tx.out.read a =
      if s.tx.pos.toNat ≤ a ∧ a < s.tx.pos.toNat + bs.length then bs.getD (a - s.tx.pos.toNat) 0 else s.tx.out.read a

/-- The room an emission of `n` bytes needs: the caller's buffer is large enough (70_reset R184) and `pos` leaves `n` indices. -/
abbrev Room (s : State) (n : Nat) : Prop := BufferOk s ∧ s.tx.pos.toNat + n ≤ Config.packetMaxSize

/-- One encode step of `p` sends its full raw frame as a wire frame, one byte longer for each byte that needs escaping. -/
abbrev SendsPayload (s : State) (p : Packet) : Prop :=
  ∃ t, encodePacket p s = .next t ∧ t.tx.result = wireFrame p.raw ∧
    t.tx.pos.toNat = p.raw.length + p.raw.countP (fun b => b == 0xC0#8 || b == 0xDB#8) + 1

/-- `t` is `s` with the de-escaped byte `v` appended under the overflow policy (20_memory R36), in a step that delivers nothing. -/
abbrev Appended (s t : State) (v : Byte) : Prop :=
  Silent t ∧ t.rx.frameClose = false ∧
    if s.rx.len.toNat = Config.maxUnpacked then t.rx.len = 0 ∧ SameBuf s t ∧ t.rx.drop = some .overflow
    else t.rx.len.toNat = s.rx.len.toNat + 1 ∧ t.rx.drop = none ∧
      ∀ a, t.rx.buf.read a = if a = s.rx.len.toNat then v else s.rx.buf.read a

end Sys2Proof.Safety
end

