-- ==== Sys2Proof/Certificates/Slice0/Obligations.lean ====
section
/-! DEFINITION. The statements about the model, for the provers. Each docstring names the rule or section of spec/ it formalises. -/

open Sys2Proof Sys2Proof.Machine Sys2Proof.Safety

/-! ## Reset, the step, the invariant -/

/-- 10_state section 5 and 92 D1 (the spec's decision): after reset `len = 0`, `esc = 0` and the outputs are (0, none). The value
of `buf` (log entry 1) is not stated. -/
def Obligations.ResetStateIsEmptyAndQuiet : Prop :=
  State.reset.rx.len = 0 ∧ State.reset.rx.esc = false ∧ Silent State.reset

/-- The invariant holds right after reset. -/
def Obligations.ResetMeetsInvariant : Prop := MachineInv State.reset

/-- Every step keeps the invariant: canonical and bounded buffers, `len` at most 25, `pos` at most 51, `frame_ready` exactly with
a packet (10_state section 1, 20_memory section 1). -/
def Obligations.StepKeepsInvariant : Prop :=
  ∀ s t, MachineInv s → step s = .next t → MachineInv t

/-- 00_scope section 4, "There is no fatal condition in this core": from every state that meets the invariant, with the buffer
the caller owes (70_reset section 2), every step completes and both hold again. -/
def Obligations.StepNeverStops : Prop :=
  ∀ s, MachineInv s → BufferOk s → ∃ t, step s = .next t ∧ MachineInv t ∧ BufferOk t

/-- 70_reset section 3 and 4 (the port samples are the spec's decisions D3, D10, D11): in a sample without reset, whatever its unused
ports hold, a byte runs the one instruction it decodes to, a request runs the instruction its tag and payload decode to and then
frames the raw frame, a byte and a request run both, and neither runs nothing. The model's choices: the samples wait in a queue, of
which a step takes the oldest and runs nothing when it is empty (log entry 7), and the byte runs before the request (log entry
10). -/
def Obligations.StepRunsTheDecodedInstruction : Prop :=
  (∀ s p rest i, s.input = p :: rest → p.rst = false → p.rxValid = true → p.encReq = false →
    decode .rxByte [p.rxByte] = .ok (i, []) → WellFormed i = true →
    step s = exec i ({ s with input := rest }).beginStep) ∧
  (∀ s p rest j, s.input = p :: rest → p.rst = false → p.rxValid = false → p.encReq = true →
    decode .encTag (p.encTag :: portBytes p.encPayload) = .ok (j, []) → WellFormed j = true →
    step s = andThen (exec j ({ s with input := rest }).beginStep) emitFrame) ∧
  (∀ s p rest i j, s.input = p :: rest → p.rst = false → p.rxValid = true → p.encReq = true →
    decode .rxByte [p.rxByte] = .ok (i, []) → decode .encTag (p.encTag :: portBytes p.encPayload) = .ok (j, []) →
    WellFormed i = true → WellFormed j = true →
    step s = andThen (exec i ({ s with input := rest }).beginStep) (fun t => andThen (exec j t) emitFrame)) ∧
  (∀ s p rest, s.input = p :: rest → p.rst = false → p.rxValid = false → p.encReq = false →
    step s = .next ({ s with input := rest }).beginStep) ∧
  (∀ s, s.input = [] → step s = .next s.beginStep)

/-- 70_reset section 1 and 4 (the spec's decisions D1, D10): a sample with `rst = 1` puts the decoder in `len = 0`, `esc = 0`,
delivers nothing and wins over a byte in the same sample; the transmit path is not reset, and a request of that sample is
answered. -/
def Obligations.ResetSampleWinsOverByte : Prop :=
  ∀ s p rest, s.input = p :: rest → p.rst = true →
    ∃ u, u.rx.len = 0 ∧ u.rx.esc = false ∧ Silent u ∧ u.rx.drop = none ∧ u.rx.frameClose = false ∧
      u.tx = { s.tx with encDone := false } ∧ u.cfg = s.cfg ∧ u.input = rest ∧
      (p.encReq = false → step s = .next u) ∧ (p.encReq = true → step s = encodeRequest p.encTag p.encPayload u)

/-- 70_reset section 4 (the port line of `rx_valid` is the spec's decision D10): a sample without reset, byte or request, whatever its
other ports hold, keeps the decoder state, delivers nothing and leaves the transmit path; a sample without reset or byte keeps the
decoder state and delivers nothing whether or not it holds a request. An empty queue (log entry 7) counts as such a sample. -/
def Obligations.IdleStepHoldsTheState : Prop :=
  (∀ s p rest, s.input = p :: rest → p.rst = false → p.rxValid = false → p.encReq = false →
    ∃ t, step s = .next t ∧ SameDecoder s t ∧ Silent t ∧ t.rx.drop = none ∧ t.rx.frameClose = false ∧
      t.tx = { s.tx with encDone := false } ∧ t.cfg = s.cfg ∧ t.input = rest) ∧
  (∀ s p rest, s.input = p :: rest → p.rst = false → p.rxValid = false → MachineInv s → BufferOk s →
    ∃ t, step s = .next t ∧ SameDecoder s t ∧ Silent t ∧ t.rx.drop = none ∧ t.rx.frameClose = false ∧
      t.cfg = s.cfg ∧ t.input = rest) ∧
  (∀ s t p rest, s.input = p :: rest → p.rst = false → p.rxValid = false → step s = .next t →
    SameDecoder s t ∧ Silent t) ∧
  (∀ s, s.input = [] → ∃ t, step s = .next t ∧ SameDecoder s t ∧ Silent t ∧ t.rx.drop = none ∧ t.rx.frameClose = false ∧
    t.tx = { s.tx with encDone := false } ∧ t.cfg = s.cfg ∧ t.input = [])

/-- 40_unstuffer section 4: only a step that took a delimiter byte has `frame_ready = 1` (the spec's decision D4), and not with a
reset in its sample, which wins over the byte (70_reset section 1 and 4, its decisions D1, D10); the outputs are those of their own
step only (70_reset section 2, its decision D12). -/
def Obligations.OnlyDelimiterStepsDeliver : Prop :=
  ∀ s t, step s = .next t → t.rx.frameReady = true →
    ∃ p rest, s.input = p :: rest ∧ p.rst = false ∧ p.rxValid = true ∧ p.rxByte = 0xC0#8

/-- 10_state section 3 (R19): no step changes the parameter. The model's choices: the caller's buffer is one for all requests (log
entry 20) and keeps its size (log entry 5), and a step takes one sample of the queue (log entry 7). -/
def Obligations.StepKeepsTheConfiguration : Prop :=
  ∀ s t, step s = .next t → t.cfg = s.cfg ∧ t.tx.outSize = s.tx.outSize ∧ t.input = s.input.tail

/-! ## The un-stuffer -/

/-- 40_unstuffer R72: `ESC`, the byte 0xDB, sets escape-pending, appends nothing, delivers nothing, in every state; no other byte
sets the flag. -/
def Obligations.EscSetsEscapePending : Prop :=
  decodeRx 0xDB#8 = .esc ∧
  (∀ s, ∃ t, exec .esc s = .next t ∧ t.rx.esc = true ∧ t.rx.len = s.rx.len ∧ SameBuf s t ∧ Silent t ∧
    t.rx.drop = none ∧ t.rx.frameClose = false ∧ OnlyRx s t) ∧
  ∀ b s t, feed b s = .next t → t.rx.esc = true → decodeRx b = .esc

/-- 40_unstuffer R73: `ESC_END` appends 0xC0 if an escape is pending, else 0xDC, or discards a full accumulation; it clears
escape-pending. What a full accumulation does is the spec's decision D7 (20_memory section 4, "the 26th byte appended"). -/
def Obligations.EscEndAppendsDelimiterOrItself : Prop :=
  decodeRx 0xDC#8 = .escEnd ∧
  ∀ s, MachineInv s → ∃ t, exec .escEnd s = .next t ∧ Appended s t (if s.rx.esc then 0xC0#8 else 0xDC#8) ∧
    t.rx.esc = false ∧ OnlyRx s t

/-- 40_unstuffer R74: `ESC_ESC` appends 0xDB if an escape is pending, else 0xDD, or discards a full accumulation; it clears
escape-pending. What a full accumulation does is the spec's decision D7 (20_memory section 4). -/
def Obligations.EscEscAppendsIntroducerOrItself : Prop :=
  decodeRx 0xDD#8 = .escEsc ∧
  ∀ s, MachineInv s → ∃ t, exec .escEsc s = .next t ∧ Appended s t (if s.rx.esc then 0xDB#8 else 0xDD#8) ∧
    t.rx.esc = false ∧ OnlyRx s t

/-- 40_unstuffer R75: `LIT(b)` appends its byte whether or not an escape is pending, or discards a full accumulation; it clears
escape-pending. What a full accumulation does is the spec's decision D7 (20_memory section 4). -/
def Obligations.LitAppendsItsByte : Prop :=
  (∀ b, WellFormed (.lit b) = true → decodeRx b = .lit b) ∧
  ∀ b s, WellFormed (.lit b) = true → MachineInv s → ∃ t, exec (.lit b) s = .next t ∧ Appended s t b ∧
    t.rx.esc = false ∧ OnlyRx s t

/-- 40_unstuffer section 2 (R71; `frame_ready` by the spec's decision D4): `END` closes an accumulation with the packet decoder's
answer, parses nothing when `len = 0`, and in every case sets `len` and `esc` to 0 and leaves `buf`. -/
def Obligations.EndClosesTheFrame : Prop :=
  ∀ s, ∃ t, exec .endFrame s = .next t ∧ t.rx.len = 0 ∧ t.rx.esc = false ∧ SameBuf s t ∧ OnlyRx s t ∧
    (if 0 < s.rx.len.toNat then
      t.rx.frameClose = true ∧
        match decodePacket s.rx.buf s.rx.len.toNat with
        | .ok p => Delivers t p
        | .error c => Rejects t c
     else t.rx.frameClose = false ∧ Silent t ∧ t.rx.drop = none)

/-- 40_unstuffer section 4 (R78) and 42_packet_decode section 1: in an `END` step with an accumulation the packet decoder's answer
is that of the instruction the tag byte `buf[0]` selects, before `len` is reset. -/
def Obligations.EndRunsTheSelectedDecode : Prop :=
  ∀ s, 0 < s.rx.len.toNat → ∃ d t,
    exec (decodeDec (s.rx.buf.read 0)) { s with rx := { s.rx with frameClose := true } } = .next d ∧
    exec .endFrame s = .next t ∧
    t = { d with rx := { d.rx with len := 0, esc := false } }

/-- 10_state R13: after a step `esc` is 1 exactly when its byte was the introducer 0xDB, and only the bytes 0xDC and 0xDD read the
flag. -/
def Obligations.EscapePendingIffIntroducer : Prop :=
  (∀ b s, MachineInv s → ∃ t, feed b s = .next t ∧ (t.rx.esc = true ↔ b = 0xDB#8)) ∧
  (∀ b s e, b ≠ 0xDC#8 → b ≠ 0xDD#8 → feed b { s with rx := { s.rx with esc := e } } = feed b s)

/-- 40_unstuffer section 4 (R77; the spec's decision D4): `frame_ready` is 1 in a step exactly when its byte is 0xC0, an
accumulation exists, its first byte is a tag of 0 to 16 and its length is that tag's size; and then only a packet is present. -/
def Obligations.FrameReadyExactlyOnAcceptedClose : Prop :=
  ∀ b s, MachineInv s → ∃ t, feed b s = .next t ∧ t.rx.frameReady = t.rx.pkt.isSome ∧
    (t.rx.frameReady = true ↔
      b = 0xC0#8 ∧ 0 < s.rx.len.toNat ∧ ∃ k : Kind, s.rx.buf.read 0 = k.tag ∧ s.rx.len.toNat = k.size)

/-- 30_encoding section 5 (R60): an introducer followed by any byte that is no escape code leaves no trace: the two steps together
do what the second does alone. -/
def Obligations.StrayIntroducerLeavesNoTrace : Prop :=
  ∀ b s, b ≠ 0xDC#8 → b ≠ 0xDD#8 → andThen (feed 0xDB#8 s) (feed b) = feed b s

/-- 40_unstuffer section 5 (R79): from an empty accumulation, bytes without a delimiter whose image fits are accumulated as their
`DeEscape`; no step delivers anything. -/
def Obligations.FeedAccumulatesDeEscape : Prop :=
  ∀ bs s, MachineInv s → s.rx.len = 0 → s.rx.esc = false → 0xC0#8 ∉ bs → (deEscape bs).length ≤ Config.maxUnpacked →
    ∃ t, feedAll bs s = .next (t, List.replicate bs.length (false, none)) ∧ closedFrame t.rx = deEscape bs ∧
      t.rx.len.toNat = (deEscape bs).length ∧ t.rx.esc = pendingAfter false bs ∧ OnlyRx s t ∧ MachineInv t

/-- 40_unstuffer section 3 (R76): a run without a delimiter that appends `k` bytes ends with `len = k mod 26`, holding the bytes
after the last overflow: there is no "discarding" state. -/
def Obligations.LongRunCountsModulo26 : Prop :=
  ∀ bs s, MachineInv s → s.rx.len = 0 → 0xC0#8 ∉ bs →
    ∃ t, feedAll bs s = .next (t, List.replicate bs.length (false, none)) ∧
      t.rx.len.toNat = (deEscapeFrom s.rx.esc bs).length % 26 ∧
      closedFrame t.rx =
        (deEscapeFrom s.rx.esc bs).drop ((deEscapeFrom s.rx.esc bs).length - (deEscapeFrom s.rx.esc bs).length % 26)

/-- 10_state section 1 (R15): what stands in `buf` at and above `len` is unobservable: two decoders that agree in `len`, `esc` and
`buf[0 .. len-1]` give the same outputs for every byte sequence, and agree again after it. -/
def Obligations.EntriesAboveLengthAreUnobservable : Prop :=
  ∀ bs s1 s2, MachineInv s1 → MachineInv s2 → s1.rx.len = s2.rx.len → s1.rx.esc = s2.rx.esc →
    closedFrame s1.rx = closedFrame s2.rx →
    ∃ t1 t2 outs, feedAll bs s1 = .next (t1, outs) ∧ feedAll bs s2 = .next (t2, outs) ∧
      t1.rx.len = t2.rx.len ∧ t1.rx.esc = t2.rx.esc ∧ closedFrame t1.rx = closedFrame t2.rx

/-- 20_memory section 5 (R41) and 60_exceptions section 5 (R168): what is decoded after a delimiter does not depend on any byte
before it, from whatever two states the delimiter was fed. -/
def Obligations.DelimiterErasesThePast : Prop :=
  ∀ bs s1 s2, MachineInv s1 → MachineInv s2 →
    ∃ t1 t2 o1 o2 outs, feedAll (0xC0#8 :: bs) s1 = .next (t1, o1 :: outs) ∧
      feedAll (0xC0#8 :: bs) s2 = .next (t2, o2 :: outs) ∧
      t1.rx.len = t2.rx.len ∧ t1.rx.esc = t2.rx.esc ∧ closedFrame t1.rx = closedFrame t2.rx

/-- 43_packet_encode section 3 (R151) and 40_unstuffer section 5 (R80): the wire frame of a packet, fed to a decoder with an empty
accumulation, gives exactly one `frame_ready`, at its last byte, with that packet. -/
def Obligations.WireFrameDeliversItsPacket : Prop :=
  ∀ p s, MachineInv s → s.rx.len = 0 → s.rx.esc = false →
    ∃ t, feedAll (wireFrame p.raw) s =
        .next (t, List.replicate (escape p.raw).length (false, none) ++ [(true, some p)]) ∧
      t.rx.len = 0 ∧ t.rx.esc = false ∧ OnlyRx s t

/-- 60_exceptions section 5 (R168): after any state whatever, once a delimiter has been fed, the next wire frame is decoded
correctly. -/
def Obligations.NextFrameAfterAnyStateIsDecoded : Prop :=
  ∀ p s, MachineInv s →
    ∃ t o, feedAll (0xC0#8 :: wireFrame p.raw) s =
        .next (t, o :: (List.replicate (escape p.raw).length (false, none) ++ [(true, some p)])) ∧
      t.rx.len = 0 ∧ t.rx.esc = false

/-! ## The packet decoder -/

/-- 42_packet_decode section 3 (R121): on a frame of at least one byte the decoder answers the packet `p` exactly when the frame
is `Raw(p)`: decoding loses no bit and invents none. -/
def Obligations.DecodePacketInvertsRaw : Prop :=
  ∀ m n p, 0 < n → (decodePacket m n = .ok p ↔ m.bytes n = p.raw)

/-- 42_packet_decode R118: a closed frame whose first byte is 17 or more is rejected, whatever its length
(that `frame_ready` is then 0 is the spec's decision D4, and the label of the cause its D19). -/
def Obligations.InvalidTagIsRejected : Prop :=
  ∀ s, 0 < s.rx.len.toNat → 17 ≤ (s.rx.buf.read 0).toNat →
    decodePacket s.rx.buf s.rx.len.toNat = .error .badTag ∧
    ∃ t, exec .endFrame s = .next t ∧ Rejects t .badTag ∧ t.rx.len = 0 ∧ t.rx.esc = false ∧ SameBuf s t ∧ OnlyRx s t

/-- 42_packet_decode R119: a closed frame with a valid tag and any other length than that tag's is rejected, too short or too
long (that `frame_ready` is then 0 is the spec's decision D4, and the label of the cause its D19). -/
def Obligations.WrongLengthIsRejected : Prop :=
  ∀ s (k : Kind), 0 < s.rx.len.toNat → s.rx.buf.read 0 = k.tag → s.rx.len.toNat ≠ k.size →
    decodePacket s.rx.buf s.rx.len.toNat = .error .badLen ∧
    ∃ t, exec .endFrame s = .next t ∧ Rejects t .badLen ∧ t.rx.len = 0 ∧ t.rx.esc = false ∧ SameBuf s t ∧ OnlyRx s t

/-- 42_packet_decode R113: the calibration payload is six consecutive words, each most significant byte first; a frame with fewer
than 24 payload bytes gives no packet. -/
def Obligations.CalibrationDecodes : Prop :=
  decodeDec 0x0C#8 = .decCalibration ∧
  (∀ s, s.rx.len.toNat = 25 → ∃ t, exec .decCalibration s = .next t ∧ OnlyOutputs s t ∧
    Delivers t (.calibration
      (s.rx.buf.read 1 ++ s.rx.buf.read 2 ++ s.rx.buf.read 3 ++ s.rx.buf.read 4)
      (s.rx.buf.read 5 ++ s.rx.buf.read 6 ++ s.rx.buf.read 7 ++ s.rx.buf.read 8)
      (s.rx.buf.read 9 ++ s.rx.buf.read 10 ++ s.rx.buf.read 11 ++ s.rx.buf.read 12)
      (s.rx.buf.read 13 ++ s.rx.buf.read 14 ++ s.rx.buf.read 15 ++ s.rx.buf.read 16)
      (s.rx.buf.read 17 ++ s.rx.buf.read 18 ++ s.rx.buf.read 19 ++ s.rx.buf.read 20)
      (s.rx.buf.read 21 ++ s.rx.buf.read 22 ++ s.rx.buf.read 23 ++ s.rx.buf.read 24))) ∧
  ∀ s, s.rx.len.toNat < 25 → ∃ t, exec .decCalibration s = .next t ∧ OnlyOutputs s t ∧ t.rx.pkt = none

/-- 42_packet_decode section 2 (that tags 0 to 4, 10 and 11 are decoded is the spec's decision D14, and the shape of version and
device ID its decision D9): each 32-bit field is four consecutive bytes and each 16-bit field two, most significant first. -/
def Obligations.NumericPacketsDecode : Prop :=
  (decodeDec 0x00#8 = .decQuaternion ∧ decodeDec 0x01#8 = .decAccel ∧ decodeDec 0x02#8 = .decGyro ∧
    decodeDec 0x03#8 = .decMag ∧ decodeDec 0x04#8 = .decTemperature ∧ decodeDec 0x0A#8 = .decVersion ∧
    decodeDec 0x0B#8 = .decDeviceId) ∧
  (∀ s, s.rx.len.toNat = 17 → ∃ t, exec .decQuaternion s = .next t ∧ OnlyOutputs s t ∧
    Delivers t (.quaternion
      (s.rx.buf.read 1 ++ s.rx.buf.read 2 ++ s.rx.buf.read 3 ++ s.rx.buf.read 4)
      (s.rx.buf.read 5 ++ s.rx.buf.read 6 ++ s.rx.buf.read 7 ++ s.rx.buf.read 8)
      (s.rx.buf.read 9 ++ s.rx.buf.read 10 ++ s.rx.buf.read 11 ++ s.rx.buf.read 12)
      (s.rx.buf.read 13 ++ s.rx.buf.read 14 ++ s.rx.buf.read 15 ++ s.rx.buf.read 16))) ∧
  (∀ s, s.rx.len.toNat = 7 → ∃ t, exec .decAccel s = .next t ∧ OnlyOutputs s t ∧
    Delivers t (.accel (s.rx.buf.read 1 ++ s.rx.buf.read 2) (s.rx.buf.read 3 ++ s.rx.buf.read 4)
      (s.rx.buf.read 5 ++ s.rx.buf.read 6))) ∧
  (∀ s, s.rx.len.toNat = 7 → ∃ t, exec .decGyro s = .next t ∧ OnlyOutputs s t ∧
    Delivers t (.gyro (s.rx.buf.read 1 ++ s.rx.buf.read 2) (s.rx.buf.read 3 ++ s.rx.buf.read 4)
      (s.rx.buf.read 5 ++ s.rx.buf.read 6))) ∧
  (∀ s, s.rx.len.toNat = 7 → ∃ t, exec .decMag s = .next t ∧ OnlyOutputs s t ∧
    Delivers t (.mag (s.rx.buf.read 1 ++ s.rx.buf.read 2) (s.rx.buf.read 3 ++ s.rx.buf.read 4)
      (s.rx.buf.read 5 ++ s.rx.buf.read 6))) ∧
  (∀ s, s.rx.len.toNat = 5 → ∃ t, exec .decTemperature s = .next t ∧ OnlyOutputs s t ∧
    Delivers t (.temperature (s.rx.buf.read 1 ++ s.rx.buf.read 2 ++ s.rx.buf.read 3 ++ s.rx.buf.read 4))) ∧
  (∀ s, s.rx.len.toNat = 5 → ∃ t, exec .decVersion s = .next t ∧ OnlyOutputs s t ∧
    Delivers t (.version (s.rx.buf.read 1 ++ s.rx.buf.read 2 ++ s.rx.buf.read 3 ++ s.rx.buf.read 4))) ∧
  (∀ s, s.rx.len.toNat = 5 → ∃ t, exec .decDeviceId s = .next t ∧ OnlyOutputs s t ∧
    Delivers t (.deviceId (s.rx.buf.read 1 ++ s.rx.buf.read 2 ++ s.rx.buf.read 3 ++ s.rx.buf.read 4)))

/-- 42_packet_decode R106 to R110, R114 to R116: the byte-sized payloads are copied, three-byte colours in wire order. -/
def Obligations.BytePacketsDecode : Prop :=
  (decodeDec 0x05#8 = .decGpio ∧ decodeDec 0x06#8 = .decColor ∧ decodeDec 0x07#8 = .decBlink ∧ decodeDec 0x08#8 = .decIr ∧
    decodeDec 0x09#8 = .decStream ∧ decodeDec 0x0D#8 = .decGpioDdr ∧ decodeDec 0x0E#8 = .decGpioPort ∧
    decodeDec 0x0F#8 = .decPower) ∧
  (∀ s, s.rx.len.toNat = 2 → ∃ t, exec .decGpio s = .next t ∧ OnlyOutputs s t ∧ Delivers t (.gpio (s.rx.buf.read 1))) ∧
  (∀ s, s.rx.len.toNat = 4 → ∃ t, exec .decColor s = .next t ∧ OnlyOutputs s t ∧
    Delivers t (.color (s.rx.buf.read 1) (s.rx.buf.read 2) (s.rx.buf.read 3))) ∧
  (∀ s, s.rx.len.toNat = 4 → ∃ t, exec .decBlink s = .next t ∧ OnlyOutputs s t ∧
    Delivers t (.blink (s.rx.buf.read 1) (s.rx.buf.read 2) (s.rx.buf.read 3))) ∧
  (∀ s, s.rx.len.toNat = 2 → ∃ t, exec .decIr s = .next t ∧ OnlyOutputs s t ∧ Delivers t (.ir (s.rx.buf.read 1))) ∧
  (∀ s, s.rx.len.toNat = 2 → ∃ t, exec .decStream s = .next t ∧ OnlyOutputs s t ∧
    Delivers t (.stream (s.rx.buf.read 1))) ∧
  (∀ s, s.rx.len.toNat = 2 → ∃ t, exec .decGpioDdr s = .next t ∧ OnlyOutputs s t ∧
    Delivers t (.gpioDdr (s.rx.buf.read 1))) ∧
  (∀ s, s.rx.len.toNat = 2 → ∃ t, exec .decGpioPort s = .next t ∧ OnlyOutputs s t ∧
    Delivers t (.gpioPort (s.rx.buf.read 1))) ∧
  (∀ s, s.rx.len.toNat = 2 → ∃ t, exec .decPower s = .next t ∧ OnlyOutputs s t ∧ Delivers t (.power (s.rx.buf.read 1)))

/-- 42_packet_decode R117: a bootload request is its tag alone; the hardware delivers it and does nothing else; with any extra
byte it is rejected. -/
def Obligations.BootloadDecodes : Prop :=
  decodeDec 0x10#8 = .decBootload ∧
  (∀ s, s.rx.len.toNat = 1 → ∃ t, exec .decBootload s = .next t ∧ OnlyOutputs s t ∧ Delivers t .bootload) ∧
  ∀ s, s.rx.len.toNat ≠ 1 → ∃ t, exec .decBootload s = .next t ∧ OnlyOutputs s t ∧ t.rx.pkt = none

/-- 42_packet_decode section 3 (R118, R119; `frame_ready = 0` is the spec's decision D4): a `DEC` instruction on a frame of any other
length than its kind's delivers nothing; `BAD_TAG` delivers nothing in any state (for the operands 0 to 16, which encode no
`BAD_TAG`, this is the model's choice of log entry 17). -/
def Obligations.DecodeInstructionsReject : Prop :=
  (∀ s (k : Kind), s.rx.len.toNat ≠ k.size → ∃ t, exec (decodeDec k.tag) s = .next t ∧ OnlyOutputs s t ∧ Rejects t .badLen) ∧
  (∀ tag s, ∃ t, exec (.badTag tag) s = .next t ∧ OnlyOutputs s t ∧ Rejects t .badTag)

/-! ## The stuffer -/

/-- 41_stuffer R86, R87, R88: a raw delimiter becomes `DB DC`, a raw introducer `DB DD`, any other raw byte passes, and a decoder
without a pending escape, with room, appends such a byte as it is. -/
def Obligations.StufferEmitsTheImage : Prop :=
  (decodeTx 0xC0#8 = .stuffEnd ∧ decodeTx 0xDB#8 = .stuffEsc ∧
    ∀ r, WellFormed (.stuffPass r) = true → decodeTx r = .stuffPass r) ∧
  (∀ r s, WellFormed (.stuffPass r) = true → MachineInv s → s.rx.esc = false → s.rx.len.toNat < Config.maxUnpacked →
    ∃ t, feed r s = .next t ∧ Appended s t r) ∧
  (∀ s, MachineInv s → Room s 2 → ∃ t, exec .stuffEnd s = .next t ∧ Emitted s t [0xDB#8, 0xDC#8] ∧ OnlyOut s t) ∧
  (∀ s, MachineInv s → Room s 2 → ∃ t, exec .stuffEsc s = .next t ∧ Emitted s t [0xDB#8, 0xDD#8] ∧ OnlyOut s t) ∧
  (∀ r s, WellFormed (.stuffPass r) = true → MachineInv s → Room s 1 →
    ∃ t, exec (.stuffPass r) s = .next t ∧ Emitted s t [r] ∧ OnlyOut s t)

/-- 41_stuffer R90, R91: the terminator is one unescaped delimiter, and `EmitFrame` of the raw frame under construction leaves its
wire frame in `out[0 .. pos-1]`: every byte stuffed, the tag byte included, and one terminator after the last; no valid tag needs
escaping. -/
def Obligations.TerminateEndsTheFrame : Prop :=
  (∀ s, MachineInv s → Room s 1 → ∃ t, exec .terminate s = .next t ∧ Emitted s t [0xC0#8] ∧ OnlyOut s t) ∧
  (∀ s, MachineInv s → BufferOk s → 1 ≤ s.tx.rawLen.toNat → ∃ t, emitFrame s = .next t ∧
    t.tx.result = wireFrame s.tx.rawBytes ∧ t.tx.encDone = true ∧
    s.tx.rawLen.toNat + 1 ≤ t.tx.pos.toNat ∧ t.tx.pos.toNat ≤ 2 * s.tx.rawLen.toNat + 1 ∧ t.tx.pos.toNat ≤ 51 ∧
    t.tx.raw = s.tx.raw ∧ t.tx.rawLen = s.tx.rawLen ∧ t.tx.outSize = s.tx.outSize ∧
    (∀ a, t.tx.pos.toNat ≤ a → t.tx.out.read a = s.tx.out.read a) ∧ OnlyTx s t) ∧
  ∀ k : Kind, escape [k.tag] = [k.tag]

/-- 70_reset section 2 (R184, U6; the refusal's name is log entry 5's): a caller's buffer below 51 bytes is refused by every emission
and by every encode step, typed, tag-only or presented at the ports. -/
def Obligations.ShortOutputBufferIsRefused : Prop :=
  ∀ s, s.tx.outSize < Config.packetMaxSize →
    exec .stuffEnd s = .refused .outputBufferTooSmall ∧ exec .stuffEsc s = .refused .outputBufferTooSmall ∧
    (∀ r, exec (.stuffPass r) s = .refused .outputBufferTooSmall) ∧
    exec .terminate s = .refused .outputBufferTooSmall ∧
    (∀ i : Instr, i.space = .encTag → encodeInstr i s = .refused .outputBufferTooSmall) ∧
    (∀ p, encodePacket p s = .refused .outputBufferTooSmall) ∧
    ∀ tag payload, encodeRequest tag payload s = .refused .outputBufferTooSmall

/-- 41_stuffer R89: `Escape` is the concatenation of the bytes' images, each what the stuffer emits for it, one byte longer per
byte that needs escaping. -/
def Obligations.EscapeLengthCountsReservedBytes : Prop :=
  escape [] = [] ∧ (∀ r rs, escape (r :: rs) = escape [r] ++ escape rs) ∧
  (∀ r s, MachineInv s → Room s (escape [r]).length → ∃ t, stuff r s = .next t ∧ Emitted s t (escape [r]) ∧ OnlyOut s t) ∧
  ∀ bs, (escape bs).length = bs.length + bs.countP (fun b => b == 0xC0#8 || b == 0xDB#8) ∧
    bs.length ≤ (escape bs).length ∧ (escape bs).length ≤ 2 * bs.length

/-- 41_stuffer section 3 (R92, item 1): `DeEscape(Escape(s)) = s`, and `Escape` is injective. -/
def Obligations.DeEscapeInvertsEscape : Prop :=
  (∀ bs, deEscape (escape bs) = bs) ∧ ∀ bs bs', escape bs = escape bs' → bs = bs'

/-- 30_encoding R63: no stuffed image holds a delimiter, so a wire frame has one at its last position and nowhere else; and every
introducer in a stuffed image is the first byte of a pair `DB DC` or `DB DD`. -/
def Obligations.DelimiterNeverInsideAFrame : Prop :=
  ∀ raw, 0xC0#8 ∉ escape raw ∧
    (∀ i, (wireFrame raw)[i]? = some 0xC0#8 ↔ i = (escape raw).length) ∧
    ∀ i, (escape raw)[i]? = some 0xDB#8 →
      (escape raw)[i + 1]? = some 0xDC#8 ∨ (escape raw)[i + 1]? = some 0xDD#8

/-! ## The packet encoder -/

/-- 43_packet_encode R131, R135, R143: the float32 kinds build their raw frame, each word most significant byte first, and the
wire frame is one byte longer for each byte that needs escaping. -/
def Obligations.FloatPacketsBuildRaw : Prop :=
  (∀ q0 q1 q2 q3 s, s.handles 0x00#8 = true → ∃ t, exec (.encQuaternion q0 q1 q2 q3) s = .next t ∧ OnlyRaw s t ∧
    t.tx.rawBytes = [0x00#8,
      q0.extractLsb 31 24, q0.extractLsb 23 16, q0.extractLsb 15 8, q0.extractLsb 7 0,
      q1.extractLsb 31 24, q1.extractLsb 23 16, q1.extractLsb 15 8, q1.extractLsb 7 0,
      q2.extractLsb 31 24, q2.extractLsb 23 16, q2.extractLsb 15 8, q2.extractLsb 7 0,
      q3.extractLsb 31 24, q3.extractLsb 23 16, q3.extractLsb 15 8, q3.extractLsb 7 0]) ∧
  (∀ v s, s.handles 0x04#8 = true → ∃ t, exec (.encTemperature v) s = .next t ∧ OnlyRaw s t ∧
    t.tx.rawBytes = [0x04#8, v.extractLsb 31 24, v.extractLsb 23 16, v.extractLsb 15 8, v.extractLsb 7 0]) ∧
  (∀ k0 k1 k2 k3 k4 k5 s, s.handles 0x0C#8 = true →
    ∃ t, exec (.encCalibration k0 k1 k2 k3 k4 k5) s = .next t ∧ OnlyRaw s t ∧
    t.tx.rawBytes = [0x0C#8,
      k0.extractLsb 31 24, k0.extractLsb 23 16, k0.extractLsb 15 8, k0.extractLsb 7 0,
      k1.extractLsb 31 24, k1.extractLsb 23 16, k1.extractLsb 15 8, k1.extractLsb 7 0,
      k2.extractLsb 31 24, k2.extractLsb 23 16, k2.extractLsb 15 8, k2.extractLsb 7 0,
      k3.extractLsb 31 24, k3.extractLsb 23 16, k3.extractLsb 15 8, k3.extractLsb 7 0,
      k4.extractLsb 31 24, k4.extractLsb 23 16, k4.extractLsb 15 8, k4.extractLsb 7 0,
      k5.extractLsb 31 24, k5.extractLsb 23 16, k5.extractLsb 15 8, k5.extractLsb 7 0]) ∧
  ∀ p s, p.kind ∈ [Kind.quaternion, Kind.temperature, Kind.calibration] → MachineInv s → BufferOk s → s.handles p.kind.tag = true → SendsPayload s p

/-- 43_packet_encode section 2 (R141, R142; the spec's decision D9): version and device ID build one big-endian 32-bit value. -/
def Obligations.VersionAndDeviceIdBuildRaw : Prop :=
  (∀ w s, s.handles 0x0A#8 = true → ∃ t, exec (.encVersion w) s = .next t ∧ OnlyRaw s t ∧
    t.tx.rawBytes = [0x0A#8, w.extractLsb 31 24, w.extractLsb 23 16, w.extractLsb 15 8, w.extractLsb 7 0]) ∧
  (∀ w s, s.handles 0x0B#8 = true → ∃ t, exec (.encDeviceId w) s = .next t ∧ OnlyRaw s t ∧
    t.tx.rawBytes = [0x0B#8, w.extractLsb 31 24, w.extractLsb 23 16, w.extractLsb 15 8, w.extractLsb 7 0])

/-- 43_packet_encode R132, R133, R134: the int16 triples build their raw frame, each halfword most significant byte first,
and the wire frame is one byte longer for each byte that needs escaping. -/
def Obligations.Int16TriplesBuildRaw : Prop :=
  (∀ a0 a1 a2 s, s.handles 0x01#8 = true → ∃ t, exec (.encAccel a0 a1 a2) s = .next t ∧ OnlyRaw s t ∧
    t.tx.rawBytes = [0x01#8, a0.extractLsb 15 8, a0.extractLsb 7 0, a1.extractLsb 15 8, a1.extractLsb 7 0,
      a2.extractLsb 15 8, a2.extractLsb 7 0]) ∧
  (∀ g0 g1 g2 s, s.handles 0x02#8 = true → ∃ t, exec (.encGyro g0 g1 g2) s = .next t ∧ OnlyRaw s t ∧
    t.tx.rawBytes = [0x02#8, g0.extractLsb 15 8, g0.extractLsb 7 0, g1.extractLsb 15 8, g1.extractLsb 7 0,
      g2.extractLsb 15 8, g2.extractLsb 7 0]) ∧
  (∀ m0 m1 m2 s, s.handles 0x03#8 = true → ∃ t, exec (.encMag m0 m1 m2) s = .next t ∧ OnlyRaw s t ∧
    t.tx.rawBytes = [0x03#8, m0.extractLsb 15 8, m0.extractLsb 7 0, m1.extractLsb 15 8, m1.extractLsb 7 0,
      m2.extractLsb 15 8, m2.extractLsb 7 0]) ∧
  ∀ p s, p.kind ∈ [Kind.accel, Kind.gyro, Kind.mag] → MachineInv s → BufferOk s → s.handles p.kind.tag = true → SendsPayload s p

/-- 43_packet_encode R136 to R140, R144 to R146: the byte-sized payloads are written as they are, three-byte colours in index
order, and the wire frame is one byte longer for each byte that needs escaping. -/
def Obligations.BytePacketsBuildRaw : Prop :=
  (∀ v s, s.handles 0x05#8 = true → ∃ t, exec (.encGpio v) s = .next t ∧ OnlyRaw s t ∧ t.tx.rawBytes = [0x05#8, v]) ∧
  (∀ c0 c1 c2 s, s.handles 0x06#8 = true → ∃ t, exec (.encColor c0 c1 c2) s = .next t ∧ OnlyRaw s t ∧
    t.tx.rawBytes = [0x06#8, c0, c1, c2]) ∧
  (∀ c0 c1 c2 s, s.handles 0x07#8 = true → ∃ t, exec (.encBlink c0 c1 c2) s = .next t ∧ OnlyRaw s t ∧
    t.tx.rawBytes = [0x07#8, c0, c1, c2]) ∧
  (∀ v s, s.handles 0x08#8 = true → ∃ t, exec (.encIr v) s = .next t ∧ OnlyRaw s t ∧ t.tx.rawBytes = [0x08#8, v]) ∧
  (∀ v s, s.handles 0x09#8 = true → ∃ t, exec (.encStream v) s = .next t ∧ OnlyRaw s t ∧ t.tx.rawBytes = [0x09#8, v]) ∧
  (∀ v s, s.handles 0x0D#8 = true → ∃ t, exec (.encGpioDdr v) s = .next t ∧ OnlyRaw s t ∧ t.tx.rawBytes = [0x0D#8, v]) ∧
  (∀ v s, s.handles 0x0E#8 = true → ∃ t, exec (.encGpioPort v) s = .next t ∧ OnlyRaw s t ∧ t.tx.rawBytes = [0x0E#8, v]) ∧
  (∀ v s, s.handles 0x0F#8 = true → ∃ t, exec (.encPower v) s = .next t ∧ OnlyRaw s t ∧ t.tx.rawBytes = [0x0F#8, v]) ∧
  ∀ p s, p.kind ∈ [Kind.gpio, Kind.color, Kind.blink, Kind.ir, Kind.stream, Kind.gpioDdr, Kind.gpioPort, Kind.power] → MachineInv s → BufferOk s → s.handles p.kind.tag = true → SendsPayload s p

/-- 43_packet_encode R147: a bootload request builds its tag alone, whatever `ENC_HANDLED` is: two bytes on the wire. -/
def Obligations.BootloadBuildsRaw : Prop :=
  (∀ s, ∃ t, exec .encBootload s = .next t ∧ OnlyRaw s t ∧ t.tx.rawBytes = [0x10#8]) ∧
  ∀ s, MachineInv s → BufferOk s → ∃ t, encodePacket .bootload s = .next t ∧ t.tx.result = [0x10#8, 0xC0#8]

/-- 43_packet_encode sections 1 and 3 (R130, R148; the spec's decisions D8, D11): a tag outside `ENC_HANDLED` builds the tag-only
frame and its fields are ignored; `ENC.TagOnly` builds it for every tag byte (for the tags 0 to 16, which encode no `ENC.TagOnly`,
this is the model's choice of log entry 17). -/
def Obligations.UnsupportedTagsBuildTagOnly : Prop :=
  (∀ p s, emitsPayload s p = false → ∃ t, exec p.toEnc s = .next t ∧ OnlyRaw s t ∧ t.tx.rawBytes = [p.kind.tag]) ∧
  (∀ tag s, ∃ t, exec (.encTagOnly tag) s = .next t ∧ OnlyRaw s t ∧ t.tx.rawBytes = [tag])

/-- 43_packet_encode section 1 (R130), 41_stuffer section 2 (R91), 30_encoding section 2 (R52): one encode step leaves in
`out[0 .. n-1]` the wire frame of the packet's raw frame (tag-only outside `ENC_HANDLED`), `n` in `pos`, and every other entry
of `out` as it was. -/
def Obligations.EncodeStepEmitsTheWireFrame : Prop :=
  ∀ p s, MachineInv s → BufferOk s → ∃ t, encodePacket p s = .next t ∧
    t.tx.result = wireFrame (if emitsPayload s p then p.raw else [p.kind.tag]) ∧ t.tx.encDone = true ∧
    (∀ a, t.tx.pos.toNat ≤ a → t.tx.out.read a = s.tx.out.read a) ∧ t.tx.outSize = s.tx.outSize ∧ OnlyTx s t

/-- 43_packet_encode section 3 (R148, the spec's decision D11): an encode request of a tag that names no kind sends the tag-only
wire frame, the tag byte stuffed like any byte, whatever the payload port holds. -/
def Obligations.InvalidTagRequestSendsTagOnly : Prop :=
  ∀ (tag : Byte) payload s, 17 ≤ tag.toNat → MachineInv s → BufferOk s → ∃ t, encodeRequest tag payload s = .next t ∧
    t.tx.result = wireFrame [tag] ∧ t.tx.encDone = true ∧
    (∀ a, t.tx.pos.toNat ≤ a → t.tx.out.read a = s.tx.out.read a) ∧ OnlyTx s t

/-- 43_packet_encode section 3 (R149): the length of every answered request, whatever its instruction, is 2 to 51. With its payload
it is `SIZE + 1` to `2·SIZE`, so at most 50; a tag-only frame of a packet has 2 bytes, and one of a tag of 17 or more (the spec's
decision D11) 3 if the tag byte needs escaping, else 2. -/
def Obligations.EncodedLengthBounds : Prop :=
  (∀ (i : Instr) s t, i.space = .encTag → MachineInv s → encodeInstr i s = .next t →
    2 ≤ t.tx.pos.toNat ∧ t.tx.pos.toNat ≤ Config.packetMaxSize) ∧
  (∀ p s t, MachineInv s → encodePacket p s = .next t → emitsPayload s p = true →
    p.kind.size + 1 ≤ t.tx.pos.toNat ∧ t.tx.pos.toNat ≤ 2 * p.kind.size ∧ t.tx.pos.toNat ≤ 50) ∧
  (∀ p s t, MachineInv s → encodePacket p s = .next t → emitsPayload s p = false → t.tx.pos.toNat = 2) ∧
  (∀ tag s t, WellFormed (.encTagOnly tag) = true → MachineInv s → encodeInstr (.encTagOnly tag) s = .next t →
    t.tx.pos.toNat = if tag = 0xC0#8 ∨ tag = 0xDB#8 then 3 else 2)

/-- 10_state R16: the result of an encode request is a function of the packet and the parameters alone: two machines with the same
`ENC_HANDLED`, whatever else differs, answer the same bytes. -/
def Obligations.EncodeResultDependsOnPacketAlone : Prop :=
  ∀ (i : Instr) s1 s2, i.space = .encTag → MachineInv s1 → MachineInv s2 → BufferOk s1 → BufferOk s2 → s1.cfg = s2.cfg →
    ∃ t1 t2, encodeInstr i s1 = .next t1 ∧ encodeInstr i s2 = .next t2 ∧ t1.tx.result = t2.tx.result

/-- 43_packet_encode section 3 (R151): what an encode step answers for a packet sent with its payload, fed back to the machine's
own decoder with an empty accumulation, is delivered as that packet at its last byte and not before. -/
def Obligations.EncodeThenFeedDeliversThePacket : Prop :=
  ∀ p s, MachineInv s → BufferOk s → s.rx.len = 0 → s.rx.esc = false → emitsPayload s p = true →
    ∃ t u n, encodePacket p s = .next t ∧ t.tx.pos.toNat = n + 1 ∧
      feedAll t.tx.result t = .next (u, List.replicate n (false, none) ++ [(true, some p)]) ∧
      u.rx.len = 0 ∧ u.rx.esc = false

/-! ## The two paths, the instances, the ports -/

/-- 00_scope section 3 (R2): an instruction of one path leaves the other path as it is, for every instruction. -/
def Obligations.PathsShareNoState : Prop :=
  ∀ i s t, exec i s = .next t →
    match i.space with
    | .rxByte | .decTag => OnlyRx s t
    | .txRawByte | .txFrameEnd | .encTag => OnlyTx s t

/-- 20_memory section 5 (R40): an encode step commutes with a decode step. -/
def Obligations.EncodeCommutesWithFeed : Prop :=
  ∀ b (i : Instr) s t1 t2, i.space = .encTag → feed b s = .next t1 → encodeInstr i s = .next t2 →
    ∃ u, encodeInstr i t1 = .next u ∧ feed b t2 = .next u

/-- 60_exceptions section 7 (R170): a step of instance `k` is the single-instance step at `k`, stops as that one stops, and leaves every
other instance as it was; and after any interleaving each instance is where its own steps alone bring it, so a system whose
instances meet the invariant runs every interleaving. A system as a list of states, and a step of an instance it does not have, are
the model's (log entry 14), as is that a stop of one instance stops the system (log entry 21); that free bytes of two instances may coincide is log entry 19 and is not stated. -/
def Obligations.InstancesAreIndependent : Prop :=
  (∀ (sys : System) k s t, sys[k]? = some s → step s = .next t →
    ∃ sys', System.stepAt k sys = .next sys' ∧ sys'[k]? = some t ∧ sys'.length = sys.length ∧
      ∀ j, j ≠ k → sys'[j]? = sys[j]?) ∧
  (∀ (sys : System) k s r, sys[k]? = some s → step s = .fault r → System.stepAt k sys = .fault r) ∧
  (∀ (sys : System) k s r, sys[k]? = some s → step s = .refused r → System.stepAt k sys = .refused r) ∧
  (∀ (sys : System) ks sys', System.run ks sys = .next sys' → sys'.length = sys.length ∧
    ∀ k s, sys[k]? = some s → ∃ t, stepN (ks.count k) s = .next t ∧ sys'[k]? = some t) ∧
  (∀ (sys : System) ks, (∀ s ∈ sys, MachineInv s ∧ BufferOk s) →
    ∃ sys', System.run ks sys = .next sys' ∧ ∀ s ∈ sys', MachineInv s ∧ BufferOk s)

/-- 70_reset section 4 (R190; the spec's decisions D10, D11): the port `pkt_payload` holds the delivered packet's payload bytes,
first byte most significant, `pkt_tag` its tag; after an encode step `tx_len` is the length and `tx_data` the bytes. What the
spec leaves open (log entry 8) is not stated. -/
def Obligations.OutputPortsCarryTheResult : Prop :=
  (∀ (s : State) (p : Packet), s.rx.pkt = some p → s.ports.pktTag = p.kind.tag ∧
    ∀ k, (h : k < p.payload.length) → s.ports.pktPayload.extractLsb' (8 * (23 - k)) 8 = p.payload[k]) ∧
  (∀ s : State, s.tx.encDone = true → s.ports.txLen = s.tx.pos ∧
    ∀ k, k < s.tx.pos.toNat → k < Config.packetMaxSize → s.ports.txData[k]? = some (s.tx.out.read k))

/-- 70_reset section 4 (the port layout and its ignored bytes are the spec's decision D11): an encode request whose tag is the
packet's and whose payload port starts with its payload bytes is the encode request of that packet; the port's other bytes are
ignored. -/
def Obligations.RequestPortSelectsThePacket : Prop :=
  ∀ p payload s, (portBytes payload).take p.payload.length = p.payload →
    encodeRequest p.kind.tag payload s = encodePacket p s

/-! ## Encodings -/

/-- 30_encoding sections 1, 3, 4 and 7: each byte selects exactly one row of the table in each of the four spaces, and the decoder of
that space answers the instruction of that row: for `dec_tag` the row's own `DEC` instruction or `BAD_TAG`, for `enc_tag`, whatever
follows the tag, the row's own `ENC` instruction with its fields at their offsets or `ENC.TagOnly`. -/
def Obligations.OpcodeRowsSelectExactlyOne : Prop :=
  (∀ b : Byte, (selectedOps rxRows b).map (RxClass.instr b) = [decodeRx b]) ∧
  (∀ r : Byte, (selectedOps txRows r).map (TxClass.instr r) = [decodeTx r]) ∧
  (∀ tag : Byte, selectedOps tagRows tag = [Kind.ofTag? tag]) ∧
  (∀ tag : Byte, (selectedOps decRows tag).map (fun op => op tag) = [decodeDec tag]) ∧
  (∀ (tag : Byte) (payload : List Byte),
    (selectedOps encRows tag).map (fun op => op (tag :: payload)) = [decodeEnc (tag :: payload)])

/-- 30_encoding R56: the size table. -/
def Obligations.SizeTableValues : Prop :=
  Kind.all.map Kind.tag = (List.range 17).map (BitVec.ofNat 8) ∧
  Kind.all.map Kind.payloadBytes = [16, 6, 6, 6, 4, 1, 3, 3, 1, 1, 4, 4, 24, 1, 1, 1, 0] ∧
  Kind.all.map Kind.size = [17, 7, 7, 7, 5, 2, 4, 4, 2, 2, 5, 5, 25, 2, 2, 2, 1] ∧
  ∀ k : Kind, k.size = 1 + k.payloadBytes

/-- 30_encoding sections 1, 3, 4: some words written out from the encodings decode to their instructions. -/
def Obligations.SampleWordsDecode : Prop :=
  decode .rxByte [0xC0#8] = .ok (.endFrame, []) ∧ decode .rxByte [0xDD#8, 0x01#8] = .ok (.escEsc, [0x01#8]) ∧
  decode .txRawByte [0xDB#8] = .ok (.stuffEsc, []) ∧ decode .txRawByte [0xDC#8] = .ok (.stuffPass 0xDC#8, []) ∧
  decode .decTag [0x0C#8] = .ok (.decCalibration, []) ∧ decode .decTag [0x11#8] = .ok (.badTag 0x11#8, []) ∧
  decode .txFrameEnd [] = .ok (.terminate, []) ∧
  decode .encTag (0x01#8 :: [0x7F#8, 0xFF#8, 0x80#8, 0x00#8, 0x00#8, 0x01#8] ++ List.replicate 18 0#8) =
    .ok (.encAccel 0x7FFF#16 0x8000#16 0x0001#16, [])

/-- Decode and encode agree: the words of every well-formed instruction decode to it in its own space, with every operand at every
value, and leave the bytes that follow. -/
def Obligations.DecodeInvertsEncode : Prop :=
  ∀ i rest, WellFormed i = true → decode i.space (encode i ++ rest) = .ok (i, rest)

/-- Whatever decodes is a well-formed instruction of the space it was read in, and the bytes it was read from stand before the
rest. -/
def Obligations.DecodeAnswersWellFormed : Prop :=
  ∀ sp bs i rest, decode sp bs = .ok (i, rest) → WellFormed i = true ∧ i.space = sp ∧
    ∃ used, bs = used ++ rest ∧ (sp ≠ .encTag → used = encode i) ∧ (sp = .encTag → used.length = 25)

/-- 20_memory R31: multi-byte fields are most significant byte first, and reading what was written, or writing what was read,
loses nothing. -/
def Obligations.FieldsAreBigEndian : Prop :=
  (∀ m a, memRead1 m a = m.read a ∧ memRead2 m a = m.read a ++ m.read (a + 1) ∧
    memRead4 m a = m.read a ++ m.read (a + 1) ++ m.read (a + 2) ++ m.read (a + 3)) ∧
  (∀ (m : Memory) a (v : Byte), m.wf → ∀ b, (memWrite1 m a v).read b = if b = a then v else m.read b) ∧
  (∀ (m : Memory) a (v : Half), m.wf → ∀ b, (memWrite2 m a v).read b =
    if b = a then v.extractLsb 15 8 else if b = a + 1 then v.extractLsb 7 0 else m.read b) ∧
  (∀ (m : Memory) a (v : Word), m.wf → ∀ b, (memWrite4 m a v).read b =
    if b = a then v.extractLsb 31 24 else if b = a + 1 then v.extractLsb 23 16
    else if b = a + 2 then v.extractLsb 15 8 else if b = a + 3 then v.extractLsb 7 0 else m.read b) ∧
  (∀ (m : Memory) a, m.wf → (∀ v, memRead2 (memWrite2 m a v) a = v) ∧ (∀ v, memRead4 (memWrite4 m a v) a = v) ∧
    (∀ b, (memWrite2 m a (memRead2 m a)).read b = m.read b) ∧ (∀ b, (memWrite4 m a (memRead4 m a)).read b = m.read b))
end

