-- ==== Sys2Proof/Laws/Memory.lean ====
section
/-! SUPPORT. The laws of the byte-indexed spaces: a read after a write, the canonical form, the bounds, byte sequences, and the
byte order. -/

namespace Sys2Proof.Machine

/-! ## The canonical form -/

@[simp] theorem Memory.wf_nil : Memory.wf [] := by simp [Memory.wf]

theorem Memory.wf_cons {b : Nat} {w : Byte} {m : Memory} :
    Memory.wf ((b, w) :: m) ↔ (∀ c ∈ m, b < c.1) ∧ w ≠ Memory.unlisted ∧ Memory.wf m := by
  simp only [Memory.wf, List.map_cons, List.pairwise_cons, List.mem_map, List.mem_cons, forall_exists_index, and_imp,
    forall_apply_eq_imp_iff₂, forall_eq_or_imp]
  tauto

theorem Memory.read_of_below {m : Memory} {a : Nat} (h : ∀ c ∈ m, a < c.1) : m.read a = Memory.unlisted := by
  cases m with
  | nil => rfl
  | cons c m =>
    obtain ⟨b, w⟩ := c
    have : a < b := h (b, w) (by simp)
    simp [Memory.read, this]

theorem Memory.mem_cons_iff {a : Nat} {v : Byte} {m : Memory} {c : Nat × Byte} :
    c ∈ Memory.cons a v m → c = (a, v) ∨ c ∈ m := by
  unfold Memory.cons
  split <;> simp_all

/-- An entry after a write is the one written or one that was there. -/
theorem Memory.mem_write {m : Memory} {a : Nat} {v : Byte} {c : Nat × Byte} (h : c ∈ m.write a v) :
    c = (a, v) ∨ c ∈ m := by
  induction m with
  | nil => exact Memory.mem_cons_iff h
  | cons d m ih =>
    obtain ⟨b, w⟩ := d
    simp only [Memory.write] at h
    split at h
    · exact Memory.mem_cons_iff h
    · split at h
      · rcases Memory.mem_cons_iff h with h | h
        · exact .inl h
        · exact .inr (List.mem_cons_of_mem _ h)
      · rcases List.mem_cons.mp h with h | h
        · exact .inr (by simp [h])
        · rcases ih h with h | h
          · exact .inl h
          · exact .inr (List.mem_cons_of_mem _ h)

/-- A write keeps the canonical form. -/
theorem Memory.wf_write {m : Memory} (a : Nat) (v : Byte) (h : m.wf) : (m.write a v).wf := by
  induction m with
  | nil =>
    simp only [Memory.write, Memory.cons]
    split
    · exact Memory.wf_nil
    · exact Memory.wf_cons.mpr ⟨by simp, by assumption, Memory.wf_nil⟩
  | cons d m ih =>
    obtain ⟨b, w⟩ := d
    obtain ⟨hb, hw, hm⟩ := Memory.wf_cons.mp h
    simp only [Memory.write]
    split
    · rename_i hab
      unfold Memory.cons
      split
      · exact h
      · refine Memory.wf_cons.mpr ⟨?_, by assumption, h⟩
        intro c hc
        rcases List.mem_cons.mp hc with rfl | hc
        · exact hab
        · exact Nat.lt_trans hab (hb c hc)
    · split
      · subst a
        unfold Memory.cons
        split
        · exact hm
        · exact Memory.wf_cons.mpr ⟨hb, by assumption, hm⟩
      · refine Memory.wf_cons.mpr ⟨?_, hw, ih hm⟩
        intro c hc
        rcases Memory.mem_write hc with rfl | hc
        · simp only; omega
        · exact hb c hc

/-- Write consecutive bytes keeps the canonical form. -/
theorem Memory.wf_writeBytes {m : Memory} (a : Nat) (vs : List Byte) (h : m.wf) : (m.writeBytes a vs).wf := by
  induction vs generalizing m a with
  | nil => exact h
  | cons v vs ih => exact ih (a + 1) (Memory.wf_write a v h)

/-- A write below the size keeps the space within it. -/
theorem Memory.within_write {m : Memory} {a n : Nat} (v : Byte) (h : m.within n) (ha : a < n) :
    (m.write a v).within n := by
  intro c hc
  rcases Memory.mem_write hc with rfl | hc
  · exact ha
  · exact h c hc

theorem Memory.within_writeBytes {m : Memory} {a n : Nat} (vs : List Byte) (h : m.within n) (ha : a + vs.length ≤ n) :
    (m.writeBytes a vs).within n := by
  induction vs generalizing m a with
  | nil => exact h
  | cons v vs ih =>
    simp only [List.length_cons] at ha
    exact ih (Memory.within_write v h (by omega)) (by omega)

/-! ## Reading -/

theorem Memory.read_cons_front {m : Memory} {a : Nat} (v : Byte) (h : ∀ c ∈ m, a < c.1) (b : Nat) :
    Memory.read (Memory.cons a v m) b = if b = a then v else m.read b := by
  unfold Memory.cons
  split
  · subst v
    split
    · subst b; exact Memory.read_of_below h
    · rfl
  · by_cases hb : b < a
    · have : Memory.read m b = Memory.unlisted := Memory.read_of_below (fun c hc => Nat.lt_trans hb (h c hc))
      simp [Memory.read, hb, this, Nat.ne_of_lt hb]
    · simp [Memory.read, hb]

/-- A read after a write: the written byte at its index, every other byte as before. -/
theorem Memory.read_write {m : Memory} (h : m.wf) (a : Nat) (v : Byte) (b : Nat) :
    Memory.read (m.write a v) b = if b = a then v else m.read b := by
  induction m with
  | nil => exact Memory.read_cons_front v (by simp) b
  | cons d m ih =>
    obtain ⟨c, w⟩ := d
    obtain ⟨hc, -, hm⟩ := Memory.wf_cons.mp h
    simp only [Memory.write]
    split
    · rename_i hac
      refine Memory.read_cons_front v ?_ b
      intro e he
      rcases List.mem_cons.mp he with rfl | he
      · exact hac
      · exact Nat.lt_trans hac (hc e he)
    · split
      · subst a
        rw [Memory.read_cons_front v hc]
        by_cases hb : b = c
        · simp [hb]
        · simp only [hb, if_false, Memory.read]
          split
          · rename_i hlt
            exact Memory.read_of_below (fun e he => Nat.lt_trans hlt (hc e he))
          · rfl
      · rename_i h1 h2
        simp only [Memory.read, ih hm]
        by_cases hb : b = a
        · subst hb; simp [h1, h2]
        · simp [hb]

/-- A read after writing consecutive bytes. -/
theorem Memory.read_writeBytes {m : Memory} (h : m.wf) (a : Nat) (vs : List Byte) (b : Nat) :
    Memory.read (m.writeBytes a vs) b = if a ≤ b ∧ b < a + vs.length then vs.getD (b - a) 0 else m.read b := by
  induction vs generalizing m a with
  | nil =>
    have : ¬(a ≤ b ∧ b < a + 0) := by omega
    simp only [List.length_nil, this, if_false, Memory.writeBytes]
  | cons v vs ih =>
    rw [Memory.writeBytes, ih (Memory.wf_write a v h), Memory.read_write h]
    by_cases hb : b = a
    · subst hb
      simp
    · by_cases h1 : a + 1 ≤ b ∧ b < a + 1 + vs.length
      · have h2 : a ≤ b ∧ b < a + (v :: vs).length := by simp only [List.length_cons]; omega
        have h3 : b - a = (b - (a + 1)) + 1 := by omega
        rw [if_pos h1, if_pos h2, h3, List.getD_cons_succ]
      · have h2 : ¬(a ≤ b ∧ b < a + (v :: vs).length) := by simp only [List.length_cons]; omega
        rw [if_neg h1, if_neg h2, if_neg hb]

/-! ## Byte sequences -/

@[simp] theorem Memory.length_bytes (m : Memory) (n : Nat) : (m.bytes n).length = n := by simp [Memory.bytes]

theorem Memory.getElem_bytes (m : Memory) (n i : Nat) (h : i < (m.bytes n).length) : (m.bytes n)[i] = m.read i := by
  simp [Memory.bytes]

@[simp] theorem Memory.bytes_zero (m : Memory) : m.bytes 0 = [] := rfl

theorem Memory.bytes_succ (m : Memory) (n : Nat) : m.bytes (n + 1) = m.bytes n ++ [m.read n] := by
  simp [Memory.bytes, List.range_succ]

theorem Memory.bytes_congr {m m' : Memory} {n : Nat} (h : ∀ a < n, m.read a = m'.read a) : m.bytes n = m'.bytes n := by
  simp only [Memory.bytes]
  exact List.map_congr_left (fun a ha => h a (List.mem_range.mp ha))

/-! ## Byte order (spec 20_memory R31) -/

@[simp] theorem length_bytes16 (v : Half) : (bytes16 v).length = 2 := rfl

@[simp] theorem length_bytes32 (v : Word) : (bytes32 v).length = 4 := rfl

/-- Reading back the two bytes of a halfword gives the halfword. -/
theorem be16_bytes16 (v : Half) : be16 (v.extractLsb' 8 8) (v.extractLsb' 0 8) = v := by
  apply BitVec.eq_of_getLsbD_eq
  intro i hi
  simp only [be16, BitVec.getLsbD_append, BitVec.getLsbD_extractLsb']
  by_cases h : i < 8
  · simp [h]
  · have h1 : i - 8 < 8 := by omega
    have h2 : 8 + (i - 8) = i := by omega
    simp [h, h1, h2]

/-- Reading back the four bytes of a word gives the word. -/
theorem be32_bytes32 (v : Word) :
    be32 (v.extractLsb' 24 8) (v.extractLsb' 16 8) (v.extractLsb' 8 8) (v.extractLsb' 0 8) = v := by
  apply BitVec.eq_of_getLsbD_eq
  intro i hi
  simp only [be32, BitVec.getLsbD_append, BitVec.getLsbD_extractLsb']
  by_cases h0 : i < 8
  · simp [h0]
  · by_cases h1 : i - 8 < 8
    · have e : 8 + (i - 8) = i := by omega
      simp [h0, h1, e]
    · by_cases h2 : i - 8 - 8 < 8
      · have e : 16 + (i - 8 - 8) = i := by omega
        simp [h0, h1, h2, e]
      · have h3 : i - 8 - 8 - 8 < 8 := by omega
        have e : 24 + (i - 8 - 8 - 8) = i := by omega
        simp [h0, h1, h2, h3, e]

/-- The bytes of a halfword read from two bytes are those bytes. -/
theorem bytes16_be16 (b0 b1 : Byte) : bytes16 (be16 b0 b1) = [b0, b1] := by
  simp only [bytes16, List.cons.injEq, and_true]
  constructor <;>
  · apply BitVec.eq_of_getLsbD_eq
    intro i hi
    have e1 : ¬8 + i < 8 := by omega
    simp only [be16, BitVec.getLsbD_extractLsb', BitVec.getLsbD_append]
    simp [hi, e1]

/-- The bytes of a word read from four bytes are those bytes. -/
theorem bytes32_be32 (b0 b1 b2 b3 : Byte) : bytes32 (be32 b0 b1 b2 b3) = [b0, b1, b2, b3] := by
  simp only [bytes32, List.cons.injEq, and_true]
  refine ⟨?_, ?_, ?_, ?_⟩ <;>
  · apply BitVec.eq_of_getLsbD_eq
    intro i hi
    have e1 : ¬8 + i < 8 := by omega
    have e2 : ¬16 + i < 8 := by omega
    have e3 : ¬16 + i - 8 < 8 := by omega
    have e4 : ¬24 + i < 8 := by omega
    have e5 : ¬24 + i - 8 < 8 := by omega
    have e6 : ¬24 + i - 8 - 8 < 8 := by omega
    have e7 : 24 + i - 8 - 8 - 8 = i := by omega
    have e8 : 16 + i - 8 - 8 = i := by omega
    simp only [be32, BitVec.getLsbD_extractLsb', BitVec.getLsbD_append]
    simp [hi, e1, e2, e3, e4, e5, e6, e7, e8]

end Sys2Proof.Machine
end

