-- ==== Sys2Proof/Laws/State.lean ====
section
/-! SUPPORT. The fields of each named update, one lemma per field, true by unfolding the update once. -/

namespace Sys2Proof.Machine

/-! ## Decoder.setEsc -/

@[simp] theorem Decoder.setEsc_buf (d : Decoder) : d.setEsc.buf = d.buf := rfl
@[simp] theorem Decoder.setEsc_len (d : Decoder) : d.setEsc.len = d.len := rfl
@[simp] theorem Decoder.setEsc_esc (d : Decoder) : d.setEsc.esc = true := rfl
@[simp] theorem Decoder.setEsc_frameReady (d : Decoder) : d.setEsc.frameReady = d.frameReady := rfl
@[simp] theorem Decoder.setEsc_pkt (d : Decoder) : d.setEsc.pkt = d.pkt := rfl
@[simp] theorem Decoder.setEsc_frameClose (d : Decoder) : d.setEsc.frameClose = d.frameClose := rfl
@[simp] theorem Decoder.setEsc_drop (d : Decoder) : d.setEsc.drop = d.drop := rfl

/-! ## Decoder.clearEsc -/

@[simp] theorem Decoder.clearEsc_buf (d : Decoder) : d.clearEsc.buf = d.buf := rfl
@[simp] theorem Decoder.clearEsc_len (d : Decoder) : d.clearEsc.len = d.len := rfl
@[simp] theorem Decoder.clearEsc_esc (d : Decoder) : d.clearEsc.esc = false := rfl
@[simp] theorem Decoder.clearEsc_frameReady (d : Decoder) : d.clearEsc.frameReady = d.frameReady := rfl
@[simp] theorem Decoder.clearEsc_pkt (d : Decoder) : d.clearEsc.pkt = d.pkt := rfl
@[simp] theorem Decoder.clearEsc_frameClose (d : Decoder) : d.clearEsc.frameClose = d.frameClose := rfl
@[simp] theorem Decoder.clearEsc_drop (d : Decoder) : d.clearEsc.drop = d.drop := rfl

/-! ## Decoder.quiet -/

@[simp] theorem Decoder.quiet_buf (d : Decoder) : d.quiet.buf = d.buf := rfl
@[simp] theorem Decoder.quiet_len (d : Decoder) : d.quiet.len = d.len := rfl
@[simp] theorem Decoder.quiet_esc (d : Decoder) : d.quiet.esc = d.esc := rfl
@[simp] theorem Decoder.quiet_frameReady (d : Decoder) : d.quiet.frameReady = false := rfl
@[simp] theorem Decoder.quiet_pkt (d : Decoder) : d.quiet.pkt = none := rfl
@[simp] theorem Decoder.quiet_frameClose (d : Decoder) : d.quiet.frameClose = false := rfl
@[simp] theorem Decoder.quiet_drop (d : Decoder) : d.quiet.drop = none := rfl

/-! ## Decoder.discard -/

@[simp] theorem Decoder.discard_buf (d : Decoder) (c : DropCause) : (d.discard c).buf = d.buf := rfl
@[simp] theorem Decoder.discard_len (d : Decoder) (c : DropCause) : (d.discard c).len = 0 := rfl
@[simp] theorem Decoder.discard_esc (d : Decoder) (c : DropCause) : (d.discard c).esc = d.esc := rfl
@[simp] theorem Decoder.discard_frameReady (d : Decoder) (c : DropCause) : (d.discard c).frameReady = false := rfl
@[simp] theorem Decoder.discard_pkt (d : Decoder) (c : DropCause) : (d.discard c).pkt = none := rfl
@[simp] theorem Decoder.discard_frameClose (d : Decoder) (c : DropCause) : (d.discard c).frameClose = d.frameClose := rfl
@[simp] theorem Decoder.discard_drop (d : Decoder) (c : DropCause) : (d.discard c).drop = some c := rfl

/-! ## Decoder.resetEvent -/

@[simp] theorem Decoder.resetEvent_buf (d : Decoder) (n : Nat) : (d.resetEvent n).buf = freeBuf n := by simp only [Decoder.resetEvent]
@[simp] theorem Decoder.resetEvent_len (d : Decoder) (n : Nat) : (d.resetEvent n).len = 0 := rfl
@[simp] theorem Decoder.resetEvent_esc (d : Decoder) (n : Nat) : (d.resetEvent n).esc = false := rfl
@[simp] theorem Decoder.resetEvent_frameReady (d : Decoder) (n : Nat) : (d.resetEvent n).frameReady = false := rfl
@[simp] theorem Decoder.resetEvent_pkt (d : Decoder) (n : Nat) : (d.resetEvent n).pkt = none := rfl
@[simp] theorem Decoder.resetEvent_frameClose (d : Decoder) (n : Nat) : (d.resetEvent n).frameClose = false := rfl
@[simp] theorem Decoder.resetEvent_drop (d : Decoder) (n : Nat) : (d.resetEvent n).drop = none := rfl

/-! ## Encoder.setRaw -/

@[simp] theorem Encoder.setRaw_raw (e : Encoder) (m : Memory) (n : Nat) : (e.setRaw m n).raw = m := rfl
@[simp] theorem Encoder.setRaw_rawLen (e : Encoder) (m : Memory) (n : Nat) : (e.setRaw m n).rawLen = BitVec.ofNat 5 n := rfl
@[simp] theorem Encoder.setRaw_out (e : Encoder) (m : Memory) (n : Nat) : (e.setRaw m n).out = e.out := rfl
@[simp] theorem Encoder.setRaw_outSize (e : Encoder) (m : Memory) (n : Nat) : (e.setRaw m n).outSize = e.outSize := rfl
@[simp] theorem Encoder.setRaw_pos (e : Encoder) (m : Memory) (n : Nat) : (e.setRaw m n).pos = e.pos := rfl
@[simp] theorem Encoder.setRaw_encDone (e : Encoder) (m : Memory) (n : Nat) : (e.setRaw m n).encDone = e.encDone := rfl

/-! ## Encoder.startFrame -/

@[simp] theorem Encoder.startFrame_raw (e : Encoder) : e.startFrame.raw = e.raw := rfl
@[simp] theorem Encoder.startFrame_rawLen (e : Encoder) : e.startFrame.rawLen = e.rawLen := rfl
@[simp] theorem Encoder.startFrame_out (e : Encoder) : e.startFrame.out = e.out := rfl
@[simp] theorem Encoder.startFrame_outSize (e : Encoder) : e.startFrame.outSize = e.outSize := rfl
@[simp] theorem Encoder.startFrame_pos (e : Encoder) : e.startFrame.pos = 0 := rfl
@[simp] theorem Encoder.startFrame_encDone (e : Encoder) : e.startFrame.encDone = false := rfl

/-! ## Encoder.finishFrame -/

@[simp] theorem Encoder.finishFrame_raw (e : Encoder) : e.finishFrame.raw = e.raw := rfl
@[simp] theorem Encoder.finishFrame_rawLen (e : Encoder) : e.finishFrame.rawLen = e.rawLen := rfl
@[simp] theorem Encoder.finishFrame_out (e : Encoder) : e.finishFrame.out = e.out := rfl
@[simp] theorem Encoder.finishFrame_outSize (e : Encoder) : e.finishFrame.outSize = e.outSize := rfl
@[simp] theorem Encoder.finishFrame_pos (e : Encoder) : e.finishFrame.pos = e.pos := rfl
@[simp] theorem Encoder.finishFrame_encDone (e : Encoder) : e.finishFrame.encDone = true := rfl

/-! ## State.beginStep -/

@[simp] theorem State.beginStep_rx (s : State) : s.beginStep.rx = s.rx.quiet := rfl
@[simp] theorem State.beginStep_tx (s : State) : s.beginStep.tx = { s.tx with encDone := false } := rfl
@[simp] theorem State.beginStep_cfg (s : State) : s.beginStep.cfg = s.cfg := rfl
@[simp] theorem State.beginStep_input (s : State) : s.beginStep.input = s.input := rfl
@[simp] theorem State.beginStep_fresh (s : State) : s.beginStep.fresh = s.fresh + 1 := rfl

/-! ## State.withFetchWord -/

@[simp] theorem State.withFetchWord_rx (s : State) (n w : Nat) : (s.withFetchWord n w).rx = s.rx := rfl
@[simp] theorem State.withFetchWord_tx (s : State) (n w : Nat) : (s.withFetchWord n w).tx = s.tx := rfl
@[simp] theorem State.withFetchWord_cfg (s : State) (n w : Nat) : (s.withFetchWord n w).cfg = s.cfg := rfl
@[simp] theorem State.withFetchWord_input (s : State) (n w : Nat) : (s.withFetchWord n w).input = PortsIn.feed (BitVec.ofNat 8 (w % 2 ^ n)) :: s.input := rfl
@[simp] theorem State.withFetchWord_fresh (s : State) (n w : Nat) : (s.withFetchWord n w).fresh = s.fresh := rfl

/-! ## Decoder.answer -/

@[simp] theorem Decoder.answer_buf (d : Decoder) (r : Except DropCause Packet) : (d.answer r).buf = d.buf := by
  cases r <;> rfl
@[simp] theorem Decoder.answer_len (d : Decoder) (r : Except DropCause Packet) : (d.answer r).len = d.len := by
  cases r <;> rfl
@[simp] theorem Decoder.answer_esc (d : Decoder) (r : Except DropCause Packet) : (d.answer r).esc = d.esc := by
  cases r <;> rfl
@[simp] theorem Decoder.answer_ok_frameReady (d : Decoder) (p : Packet) : (d.answer (.ok p)).frameReady = true := rfl
@[simp] theorem Decoder.answer_error_frameReady (d : Decoder) (c : DropCause) : (d.answer (.error c)).frameReady = false := rfl
@[simp] theorem Decoder.answer_ok_pkt (d : Decoder) (p : Packet) : (d.answer (.ok p)).pkt = some p := rfl
@[simp] theorem Decoder.answer_error_pkt (d : Decoder) (c : DropCause) : (d.answer (.error c)).pkt = none := rfl
@[simp] theorem Decoder.answer_frameClose (d : Decoder) (r : Except DropCause Packet) : (d.answer r).frameClose = d.frameClose := by
  cases r <;> rfl
@[simp] theorem Decoder.answer_ok_drop (d : Decoder) (p : Packet) : (d.answer (.ok p)).drop = none := rfl
@[simp] theorem Decoder.answer_error_drop (d : Decoder) (c : DropCause) : (d.answer (.error c)).drop = some c := rfl

end Sys2Proof.Machine
end

