-- ==== Sys2Proof/Laws/Ops.lean ====
section
/-! SUPPORT. What each shared operation can do, said once: the appender, the emitter, the packet decoder, the closing of a frame,
and the sequencing of answers. Proofs cite these instead of unfolding the operations. -/

namespace Sys2Proof

/-! ## Tags (spec 30_encoding R55, R56) -/

@[simp] theorem Kind.ofTag?_tag (k : Kind) : Kind.ofTag? k.tag = some k := by cases k <;> decide

/-- A tag byte that names a kind is that kind's tag. -/
theorem Kind.tag_of_ofTag? {b : Byte} {k : Kind} (h : Kind.ofTag? b = some k) : b = k.tag := by
  have h1 := List.find?_some h
  exact (beq_iff_eq.mp h1).symm

theorem Kind.size_pos (k : Kind) : 0 < k.size := by simp [Kind.size]

theorem Kind.size_le (k : Kind) : k.size ≤ Config.maxUnpacked := by cases k <;> decide

end Sys2Proof

namespace Sys2Proof.Machine

open Sys2Proof.Safety

/-! ## Sequencing -/

@[simp] theorem andThen_next {α β : Type} (a : α) (f : α → Answer β) : andThen (.next a) f = f a := rfl

@[simp] theorem andThen_fault {α β : Type} (r : Fault) (f : α → Answer β) : andThen (.fault r) f = .fault r := rfl

@[simp] theorem andThen_refused {α β : Type} (r : Refusal) (f : α → Answer β) : andThen (.refused r) f = .refused r := rfl

/-- A sequence that answers a next state had one in the middle. -/
theorem andThen_eq_next {α β : Type} {o : Answer α} {f : α → Answer β} {b : β} (h : andThen o f = .next b) :
    ∃ a, o = .next a ∧ f a = .next b := by
  cases o with
  | next a => exact ⟨a, rfl, h⟩
  | fault r => cases h
  | refused r => cases h

theorem andThen_assoc {α β γ : Type} (o : Answer α) (f : α → Answer β) (g : β → Answer γ) :
    andThen (andThen o f) g = andThen o (fun a => andThen (f a) g) := by
  cases o <;> rfl

@[simp] theorem andThen_pure {α : Type} (o : Answer α) : andThen o .next = o := by cases o <;> rfl

/-- A receive-path operation changes the receive path only. -/
theorem onRx_eq_next {s t : State} {o : Answer Decoder} (h : onRx s o = .next t) :
    ∃ d, o = .next d ∧ t = { s with rx := d } := by
  obtain ⟨d, ho, hd⟩ := andThen_eq_next h
  exact ⟨d, ho, by cases hd; rfl⟩

/-- A transmit-path operation changes the transmit path only. -/
theorem onTx_eq_next {s t : State} {o : Answer Encoder} (h : onTx s o = .next t) :
    ∃ e, o = .next e ∧ t = { s with tx := e } := by
  obtain ⟨e, ho, he⟩ := andThen_eq_next h
  exact ⟨e, ho, by cases he; rfl⟩

/-! ## The appender (spec 20_memory R36) -/

theorem len_add_one {l : BitVec 5} (h : l.toNat < Config.maxUnpacked) : (l + 1).toNat = l.toNat + 1 := by
  have : l.toNat < 25 := h
  have h1 : (1 : BitVec 5).toNat = 1 := rfl
  rw [BitVec.toNat_add, h1]
  omega

theorem accAppend_full {d : Decoder} (v : Byte) (h : d.len.toNat = Config.maxUnpacked) :
    accAppend d v = .next (d.quiet.discard .overflow) := by simp [accAppend, h]

theorem accAppend_room {d : Decoder} (v : Byte) (h : d.len.toNat < Config.maxUnpacked) :
    accAppend d v = .next { d.quiet with buf := d.buf.write d.len.toNat v, len := d.len + 1 } := by
  have : d.len.toNat ≠ Config.maxUnpacked := Nat.ne_of_lt h
  simp only [accAppend, this, if_false, h, if_true]

/-- Everything the appender can do: discard a full accumulation, append below the capacity, or fault at an index `buf` lacks. -/
theorem accAppend_cases (d : Decoder) (v : Byte) :
    (d.len.toNat = Config.maxUnpacked ∧ accAppend d v = .next (d.quiet.discard .overflow)) ∨
    (d.len.toNat < Config.maxUnpacked ∧
      accAppend d v = .next { d.quiet with buf := d.buf.write d.len.toNat v, len := d.len + 1 }) ∨
    (Config.maxUnpacked < d.len.toNat ∧ accAppend d v = .fault .bufIndex) := by
  rcases Nat.lt_trichotomy d.len.toNat Config.maxUnpacked with h | h | h
  · exact .inr (.inl ⟨h, accAppend_room v h⟩)
  · exact .inl ⟨h, accAppend_full v h⟩
  · refine .inr (.inr ⟨h, ?_⟩)
    have h1 : d.len.toNat ≠ Config.maxUnpacked := Nat.ne_of_gt h
    have h2 : ¬d.len.toNat < Config.maxUnpacked := Nat.not_lt.mpr (Nat.le_of_lt h)
    simp only [accAppend, h1, h2, if_false]

/-- The appender keeps the receive invariant and completes under it. -/
theorem accAppend_next {d : Decoder} (v : Byte) (h : RxInv d) : ∃ d', accAppend d v = .next d' ∧ RxInv d' := by
  obtain ⟨hwf, hin, hlen, -, -⟩ := h
  rcases accAppend_cases d v with ⟨-, h⟩ | ⟨hlt, h⟩ | ⟨hgt, -⟩
  · exact ⟨_, h, hwf, hin, by simp, by simp, by simp⟩
  · refine ⟨_, h, Memory.wf_write _ _ hwf, Memory.within_write v hin hlt, ?_, rfl, by simp⟩
    simp only [len_add_one hlt]; omega
  · omega

/-! ## The emitter (spec 20_memory R43) -/

theorem pos_add_one {p : BitVec 6} (h : p.toNat < Config.packetMaxSize) : (p + 1).toNat = p.toNat + 1 := by
  have : p.toNat < 51 := h
  have h1 : (1 : BitVec 6).toNat = 1 := rfl
  rw [BitVec.toNat_add, h1]
  omega

theorem emit_room {e : Encoder} (b : Byte) (hs : Config.packetMaxSize ≤ e.outSize) (h : e.pos.toNat < Config.packetMaxSize) :
    emit e b = .next { e with out := e.out.write e.pos.toNat b, pos := e.pos + 1 } := by
  have : ¬e.outSize < Config.packetMaxSize := Nat.not_lt.mpr hs
  simp only [emit, this, if_false, h, if_true]

/-- Everything the emitter can do: refuse a short buffer, emit one byte, or fault at an index `out` lacks. -/
theorem emit_cases (e : Encoder) (b : Byte) :
    (e.outSize < Config.packetMaxSize ∧ emit e b = .refused .outputBufferTooSmall) ∨
    (Config.packetMaxSize ≤ e.outSize ∧ e.pos.toNat < Config.packetMaxSize ∧
      emit e b = .next { e with out := e.out.write e.pos.toNat b, pos := e.pos + 1 }) ∨
    (Config.packetMaxSize ≤ e.outSize ∧ Config.packetMaxSize ≤ e.pos.toNat ∧ emit e b = .fault .outIndex) := by
  by_cases hs : e.outSize < Config.packetMaxSize
  · exact .inl ⟨hs, by simp only [emit, hs, if_true]⟩
  · have hs' := Nat.not_lt.mp hs
    by_cases hp : e.pos.toNat < Config.packetMaxSize
    · exact .inr (.inl ⟨hs', hp, emit_room b hs' hp⟩)
    · exact .inr (.inr ⟨hs', Nat.not_lt.mp hp, by simp only [emit, hs, hp, if_false]⟩)

/-! ## The packet decoder (spec 42_packet_decode R100) -/

theorem checkLen_ok {k : Kind} {len : Nat} {p q : Packet} : checkLen k len p = .ok q ↔ len = k.size ∧ q = p := by
  unfold checkLen
  split <;> simp_all [eq_comm]

theorem checkLen_error {k : Kind} {len : Nat} {p : Packet} {c : DropCause} :
    checkLen k len p = .error c ↔ len ≠ k.size ∧ c = .badLen := by
  unfold checkLen
  split <;> simp_all [eq_comm]

/-- The decoder accepts exactly a named tag with its exact length. -/
theorem decodePacket_ok {buf : Memory} {len : Nat} {p : Packet} :
    decodePacket buf len = .ok p ↔ ∃ k, Kind.ofTag? (buf.read 0) = some k ∧ len = k.size ∧ p = readKind k buf := by
  unfold decodePacket
  cases h : Kind.ofTag? (buf.read 0) with
  | none => simp
  | some k => simp [checkLen_ok]

/-- The answer of the packet decoder keeps the receive invariant. -/
theorem answer_inv {d : Decoder} (r : Except DropCause Packet) (h : RxInv d) : RxInv (d.answer r) := by
  obtain ⟨hwf, hin, hlen, -, -⟩ := h
  cases r <;> exact ⟨hwf, hin, hlen, rfl, by simp⟩

/-- Closing a frame leaves the decoder state as it is. -/
@[simp] theorem Decoder.closeFrame_buf (d : Decoder) : d.closeFrame.buf = d.buf := by
  unfold Decoder.closeFrame; split <;> simp

@[simp] theorem Decoder.closeFrame_len (d : Decoder) : d.closeFrame.len = d.len := by
  unfold Decoder.closeFrame; split <;> simp

@[simp] theorem Decoder.closeFrame_esc (d : Decoder) : d.closeFrame.esc = d.esc := by
  unfold Decoder.closeFrame; split <;> simp

theorem Decoder.closeFrame_empty {d : Decoder} (h : d.len.toNat = 0) : d.closeFrame = d.quiet := by
  simp only [Decoder.closeFrame, h, Nat.lt_irrefl, if_false]

theorem Decoder.closeFrame_some {d : Decoder} (h : 0 < d.len.toNat) :
    d.closeFrame = { d.quiet with frameClose := true }.answer (decodePacket d.buf d.len.toNat) := by
  simp only [Decoder.closeFrame, h, if_true]

theorem closeFrame_inv {d : Decoder} (h : RxInv d) : RxInv d.closeFrame := by
  have hq : RxInv d.quiet := ⟨h.1, h.2.1, h.2.2.1, rfl, by simp⟩
  unfold Decoder.closeFrame
  split
  · exact answer_inv _ (by exact hq)
  · exact hq

/-! ## Reset (spec 70_reset R180) and the start of a step -/

/-- The unspecified accumulator after a reset at run time is in canonical form, inside its indices. -/
theorem freeBuf_ok (n : Nat) : (freeBuf n).wf ∧ (freeBuf n).within Config.maxUnpacked := by
  unfold freeBuf
  exact ⟨Memory.wf_writeBytes _ _ Memory.wf_nil, Memory.within_writeBytes _ (by simp) (by simp)⟩

/-- A reset at run time establishes the receive invariant from any decoder. -/
theorem resetEvent_inv (d : Decoder) (n : Nat) : RxInv (d.resetEvent n) :=
  ⟨(freeBuf_ok n).1, (freeBuf_ok n).2, by simp, rfl, by simp⟩

/-- The memories of `State.reset` are in canonical form. -/
theorem reset_memories_wf :
    State.reset.rx.buf.wf ∧ State.reset.tx.raw.wf ∧ State.reset.tx.out.wf :=
  ⟨Memory.wf_nil, Memory.wf_nil, Memory.wf_nil⟩

/-- The start of a step keeps the invariant, whatever samples wait. -/
theorem beginStep_inv {s : State} (q : List PortsIn) (h : MachineInv s) :
    MachineInv ({ s with input := q }).beginStep :=
  ⟨⟨h.1.1, h.1.2.1, h.1.2.2.1, rfl, by simp⟩, h.2.1, h.2.2.1, h.2.2.2.1, h.2.2.2.2.1, h.2.2.2.2.2.1, h.2.2.2.2.2.2.1,
    by simp⟩

/-! ## Instances (spec 60_exceptions R170) -/

theorem System.stepAt_none {k : Nat} {sys : System} (h : sys[k]? = none) : System.stepAt k sys = .next sys := by
  simp only [System.stepAt, h]

/-- A step of an instance of the system is that instance's step, put in its place. -/
theorem System.stepAt_some {k : Nat} {sys : System} {s : State} (h : sys[k]? = some s) :
    System.stepAt k sys = andThen (step s) (fun t => .next (sys.set k t)) := by
  simp only [System.stepAt, h]

end Sys2Proof.Machine
end

