-- ==== Sys2Proof/Laws/PerInstr.lean ====
section
/-! SUPPORT. What holds of each instruction as syntax: the number of bytes its encoding has is that of its space (spec 30_encoding
R66, 70_reset R190). One lemma per constructor. -/

namespace Sys2Proof.Laws

/-- The encoding has one byte in the three byte spaces, none in `tx_frame_end`, and 25 (tag and payload port) in `enc_tag`. -/
def EncodedLength.Statement (i : Instr) : Prop :=
  (encode i).length = match i.space with
    | .rxByte | .txRawByte | .decTag => 1
    | .txFrameEnd => 0
    | .encTag => 1 + Config.maxPayload

theorem EncodedLength.endFrame : EncodedLength.Statement .endFrame := rfl

theorem EncodedLength.esc : EncodedLength.Statement .esc := rfl

theorem EncodedLength.escEnd : EncodedLength.Statement .escEnd := rfl

theorem EncodedLength.escEsc : EncodedLength.Statement .escEsc := rfl

theorem EncodedLength.lit (b : Byte) : EncodedLength.Statement (.lit b) := rfl

theorem EncodedLength.stuffEnd : EncodedLength.Statement .stuffEnd := rfl

theorem EncodedLength.stuffEsc : EncodedLength.Statement .stuffEsc := rfl

theorem EncodedLength.stuffPass (r : Byte) : EncodedLength.Statement (.stuffPass r) := rfl

theorem EncodedLength.terminate : EncodedLength.Statement .terminate := rfl

theorem EncodedLength.decQuaternion : EncodedLength.Statement .decQuaternion := rfl

theorem EncodedLength.decAccel : EncodedLength.Statement .decAccel := rfl

theorem EncodedLength.decGyro : EncodedLength.Statement .decGyro := rfl

theorem EncodedLength.decMag : EncodedLength.Statement .decMag := rfl

theorem EncodedLength.decTemperature : EncodedLength.Statement .decTemperature := rfl

theorem EncodedLength.decGpio : EncodedLength.Statement .decGpio := rfl

theorem EncodedLength.decColor : EncodedLength.Statement .decColor := rfl

theorem EncodedLength.decBlink : EncodedLength.Statement .decBlink := rfl

theorem EncodedLength.decIr : EncodedLength.Statement .decIr := rfl

theorem EncodedLength.decStream : EncodedLength.Statement .decStream := rfl

theorem EncodedLength.decVersion : EncodedLength.Statement .decVersion := rfl

theorem EncodedLength.decDeviceId : EncodedLength.Statement .decDeviceId := rfl

theorem EncodedLength.decCalibration : EncodedLength.Statement .decCalibration := rfl

theorem EncodedLength.decGpioDdr : EncodedLength.Statement .decGpioDdr := rfl

theorem EncodedLength.decGpioPort : EncodedLength.Statement .decGpioPort := rfl

theorem EncodedLength.decPower : EncodedLength.Statement .decPower := rfl

theorem EncodedLength.decBootload : EncodedLength.Statement .decBootload := rfl

theorem EncodedLength.badTag (tag : Byte) : EncodedLength.Statement (.badTag tag) := rfl

theorem EncodedLength.encQuaternion (q0 q1 q2 q3 : Word) : EncodedLength.Statement (.encQuaternion q0 q1 q2 q3) := rfl

theorem EncodedLength.encAccel (a0 a1 a2 : Half) : EncodedLength.Statement (.encAccel a0 a1 a2) := rfl

theorem EncodedLength.encGyro (g0 g1 g2 : Half) : EncodedLength.Statement (.encGyro g0 g1 g2) := rfl

theorem EncodedLength.encMag (m0 m1 m2 : Half) : EncodedLength.Statement (.encMag m0 m1 m2) := rfl

theorem EncodedLength.encTemperature (t : Word) : EncodedLength.Statement (.encTemperature t) := rfl

theorem EncodedLength.encGpio (v : Byte) : EncodedLength.Statement (.encGpio v) := rfl

theorem EncodedLength.encColor (c0 c1 c2 : Byte) : EncodedLength.Statement (.encColor c0 c1 c2) := rfl

theorem EncodedLength.encBlink (c0 c1 c2 : Byte) : EncodedLength.Statement (.encBlink c0 c1 c2) := rfl

theorem EncodedLength.encIr (v : Byte) : EncodedLength.Statement (.encIr v) := rfl

theorem EncodedLength.encStream (v : Byte) : EncodedLength.Statement (.encStream v) := rfl

theorem EncodedLength.encVersion (w : Word) : EncodedLength.Statement (.encVersion w) := rfl

theorem EncodedLength.encDeviceId (w : Word) : EncodedLength.Statement (.encDeviceId w) := rfl

theorem EncodedLength.encCalibration (k0 k1 k2 k3 k4 k5 : Word) : EncodedLength.Statement (.encCalibration k0 k1 k2 k3 k4 k5) := rfl

theorem EncodedLength.encGpioDdr (v : Byte) : EncodedLength.Statement (.encGpioDdr v) := rfl

theorem EncodedLength.encGpioPort (v : Byte) : EncodedLength.Statement (.encGpioPort v) := rfl

theorem EncodedLength.encPower (v : Byte) : EncodedLength.Statement (.encPower v) := rfl

theorem EncodedLength.encBootload : EncodedLength.Statement .encBootload := rfl

theorem EncodedLength.encTagOnly (tag : Byte) : EncodedLength.Statement (.encTagOnly tag) := rfl

end Sys2Proof.Laws
end

