-- ==== Sys2Proof/Tests/Slice0.lean ====
section
/-! SUPPORT. Tests of single steps, their expected results taken from the spec's own vectors and examples (the name or the comment of
each says which), the refusal of ill-formed terms, one written-out word for every constructor's decoding, and for every obligation
with hypotheses a witness that meets them together. -/

namespace Sys2Proof.Tests

open Sys2Proof Sys2Proof.Machine Sys2Proof.Safety

/-! ## Helpers -/

/-- A machine whose decoder has accumulated these bytes, as the vectors of 95_test_vectors write a state. -/
def rxOf (bytes : List Byte) (esc : Bool) : State :=
  { State.reset with
      rx := { Decoder.reset with buf := Memory.writeBytes [] 0 bytes, len := BitVec.ofNat 5 bytes.length, esc := esc } }

/-- What a vector states of the machine after a receive step: `len`, `esc`, `buf[0 .. len-1]`, the packet (with `frame_ready`), and
the internal drop label. -/
def rxIs (o : Answer State) (bytes : List Byte) (esc : Bool) (pkt : Option Packet) (drop : Option DropCause) : Bool :=
  match o with
  | .next t => t.rx.len.toNat == bytes.length && t.rx.esc == esc && closedFrame t.rx == bytes && t.rx.pkt == pkt &&
      t.rx.frameReady == pkt.isSome && t.rx.drop == drop
  | _ => false

/-- A `DEC` step or `BAD_TAG` gives this packet, or this cause. -/
def decIs (o : Answer State) (pkt : Option Packet) (drop : Option DropCause) : Bool :=
  match o with
  | .next t => t.rx.pkt == pkt && t.rx.frameReady == pkt.isSome && t.rx.drop == drop
  | _ => false

/-- An `ENC` step has built this raw frame. -/
def rawIs (o : Answer State) (bytes : List Byte) : Bool :=
  match o with
  | .next t => t.tx.rawBytes == bytes
  | _ => false

/-- A transmit step leaves these bytes in `out[0 .. pos-1]`. -/
def outIs (o : Answer State) (bytes : List Byte) : Bool :=
  match o with
  | .next t => t.tx.result == bytes
  | _ => false

def isNext {α : Type} (o : Answer α) : Bool :=
  match o with
  | .next _ => true
  | _ => false

theorem exists_next {α : Type} {o : Answer α} (h : isNext o = true) : ∃ a, o = .next a := by
  cases o with
  | next a => exact ⟨a, rfl⟩
  | fault r => cases h
  | refused r => cases h

/-- A machine whose encoder handles the tags 0 to 4 alone (43_packet_encode R148's example). -/
def few : State :=
  { State.reset with cfg := { encHandled := Vector.ofFn (fun i => decide (i.val < 5)) } }

/-- A machine at an output position, in a caller's buffer of a size. -/
def txAt (pos size : Nat) : State :=
  { State.reset with tx := { Encoder.reset with pos := BitVec.ofNat 6 pos, outSize := size } }

/-! ## WellFormed refuses ill-formed terms -/

theorem test_wf_lit : WellFormed (.lit 0xC0#8) = false ∧ WellFormed (.lit 0xDB#8) = false ∧ WellFormed (.lit 0xDC#8) = false ∧
    WellFormed (.lit 0xDD#8) = false ∧ WellFormed (.lit 0xDE#8) = true := by decide

theorem test_wf_stuffPass : WellFormed (.stuffPass 0xC0#8) = false ∧ WellFormed (.stuffPass 0xDB#8) = false ∧
    WellFormed (.stuffPass 0xDC#8) = true := by decide

theorem test_wf_badTag : WellFormed (.badTag 0x10#8) = false ∧ WellFormed (.badTag 0x11#8) = true := by decide

theorem test_wf_encTagOnly : WellFormed (.encTagOnly 0x10#8) = false ∧ WellFormed (.encTagOnly 0x11#8) = true := by decide

/-! ## Decoding: one written-out word for every constructor -/

/-- 30_encoding R51: the input bytes, bit by bit, and the boundary bytes of `LIT`. -/
theorem test_decode_rx : decodeRx 0b11000000#8 = .endFrame ∧ decodeRx 0b11011011#8 = .esc ∧ decodeRx 0b11011100#8 = .escEnd ∧
    decodeRx 0b11011101#8 = .escEsc ∧ decodeRx 0b01000001#8 = .lit 0x41#8 ∧ decodeRx 0b10111111#8 = .lit 0xBF#8 ∧
    decodeRx 0b11000001#8 = .lit 0xC1#8 ∧ decodeRx 0b11011010#8 = .lit 0xDA#8 ∧ decodeRx 0b11011110#8 = .lit 0xDE#8 := by decide

/-- 30_encoding R53: the raw bytes of the stuffer (95 T1 to T6). -/
theorem test_decode_tx : decodeTx 0b11000000#8 = .stuffEnd ∧ decodeTx 0b11011011#8 = .stuffEsc ∧
    decodeTx 0b11011100#8 = .stuffPass 0xDC#8 ∧ decodeTx 0b11011101#8 = .stuffPass 0xDD#8 ∧
    decodeTx 0b00000000#8 = .stuffPass 0x00#8 ∧ decodeTx 0b11111111#8 = .stuffPass 0xFF#8 := by decide

/-- 30_encoding R66: the frame end takes no byte. -/
theorem test_decode_end : decode .txFrameEnd [] = .ok (.terminate, []) := by decide

/-- 30_encoding R55, R59: the tags 0 to 16, and the boundary tags of `BAD_TAG`. -/
theorem test_decode_dec : decodeDec 0b00000000#8 = .decQuaternion ∧
    decodeDec 0b00000001#8 = .decAccel ∧
    decodeDec 0b00000010#8 = .decGyro ∧
    decodeDec 0b00000011#8 = .decMag ∧
    decodeDec 0b00000100#8 = .decTemperature ∧
    decodeDec 0b00000101#8 = .decGpio ∧
    decodeDec 0b00000110#8 = .decColor ∧
    decodeDec 0b00000111#8 = .decBlink ∧
    decodeDec 0b00001000#8 = .decIr ∧
    decodeDec 0b00001001#8 = .decStream ∧
    decodeDec 0b00001010#8 = .decVersion ∧
    decodeDec 0b00001011#8 = .decDeviceId ∧
    decodeDec 0b00001100#8 = .decCalibration ∧
    decodeDec 0b00001101#8 = .decGpioDdr ∧
    decodeDec 0b00001110#8 = .decGpioPort ∧
    decodeDec 0b00001111#8 = .decPower ∧
    decodeDec 0b00010000#8 = .decBootload ∧
    decodeDec 0b00010001#8 = .badTag 0x11#8 ∧ decodeDec 0b11111111#8 = .badTag 0xFF#8 := by decide

/-- 30_encoding R57, 70_reset R190: the request 00 3F 80 00 00 00 00 00 00 00 00 00 00 00 00 00 00, zeros after it. -/
theorem test_decode_encQuaternion :
    decodeEnc ([0x00#8, 0x3F#8, 0x80#8, 0x00#8, 0x00#8, 0x00#8, 0x00#8, 0x00#8, 0x00#8, 0x00#8, 0x00#8, 0x00#8, 0x00#8, 0x00#8, 0x00#8, 0x00#8, 0x00#8] ++ List.replicate 8 0#8) =
      .encQuaternion 0x3F800000#32 0x00000000#32 0x00000000#32 0x00000000#32 := by decide

/-- 30_encoding R57, 70_reset R190: the request 01 7F FF 80 00 00 01, zeros after it. -/
theorem test_decode_encAccel :
    decodeEnc ([0x01#8, 0x7F#8, 0xFF#8, 0x80#8, 0x00#8, 0x00#8, 0x01#8] ++ List.replicate 18 0#8) =
      .encAccel 0x7FFF#16 0x8000#16 0x0001#16 := by decide

/-- 30_encoding R57, 70_reset R190: the request 02 00 10 FF F0 12 34, zeros after it. -/
theorem test_decode_encGyro :
    decodeEnc ([0x02#8, 0x00#8, 0x10#8, 0xFF#8, 0xF0#8, 0x12#8, 0x34#8] ++ List.replicate 18 0#8) =
      .encGyro 0x0010#16 0xFFF0#16 0x1234#16 := by decide

/-- 30_encoding R57, 70_reset R190: the request 03 C0 DB DC DD 00 00, zeros after it. -/
theorem test_decode_encMag :
    decodeEnc ([0x03#8, 0xC0#8, 0xDB#8, 0xDC#8, 0xDD#8, 0x00#8, 0x00#8] ++ List.replicate 18 0#8) =
      .encMag 0xC0DB#16 0xDCDD#16 0x0000#16 := by decide

/-- 30_encoding R57, 70_reset R190: the request 04 41 C8 00 00, zeros after it. -/
theorem test_decode_encTemperature :
    decodeEnc ([0x04#8, 0x41#8, 0xC8#8, 0x00#8, 0x00#8] ++ List.replicate 20 0#8) =
      .encTemperature 0x41C80000#32 := by decide

/-- 30_encoding R57, 70_reset R190: the request 05 A5, zeros after it. -/
theorem test_decode_encGpio :
    decodeEnc ([0x05#8, 0xA5#8] ++ List.replicate 23 0#8) =
      .encGpio 0xA5#8 := by decide

/-- 30_encoding R57, 70_reset R190: the request 06 FF 00 80, zeros after it. -/
theorem test_decode_encColor :
    decodeEnc ([0x06#8, 0xFF#8, 0x00#8, 0x80#8] ++ List.replicate 21 0#8) =
      .encColor 0xFF#8 0x00#8 0x80#8 := by decide

/-- 30_encoding R57, 70_reset R190: the request 07 01 02 03, zeros after it. -/
theorem test_decode_encBlink :
    decodeEnc ([0x07#8, 0x01#8, 0x02#8, 0x03#8] ++ List.replicate 21 0#8) =
      .encBlink 0x01#8 0x02#8 0x03#8 := by decide

/-- 30_encoding R57, 70_reset R190: the request 08 0F, zeros after it. -/
theorem test_decode_encIr :
    decodeEnc ([0x08#8, 0x0F#8] ++ List.replicate 23 0#8) =
      .encIr 0x0F#8 := by decide

/-- 30_encoding R57, 70_reset R190: the request 09 07, zeros after it. -/
theorem test_decode_encStream :
    decodeEnc ([0x09#8, 0x07#8] ++ List.replicate 23 0#8) =
      .encStream 0x07#8 := by decide

/-- 30_encoding R57, 70_reset R190: the request 0A 00 01 02 03, zeros after it. -/
theorem test_decode_encVersion :
    decodeEnc ([0x0A#8, 0x00#8, 0x01#8, 0x02#8, 0x03#8] ++ List.replicate 20 0#8) =
      .encVersion 0x00010203#32 := by decide

/-- 30_encoding R57, 70_reset R190: the request 0B DE AD BE EF, zeros after it. -/
theorem test_decode_encDeviceId :
    decodeEnc ([0x0B#8, 0xDE#8, 0xAD#8, 0xBE#8, 0xEF#8] ++ List.replicate 20 0#8) =
      .encDeviceId 0xDEADBEEF#32 := by decide

/-- 30_encoding R57, 70_reset R190: the request 0C 3F 80 00 00 00 00 00 00 BF 80 00 00 7F C0 00 01 00 00 00 01 FF FF FF FF, zeros after it. -/
theorem test_decode_encCalibration :
    decodeEnc ([0x0C#8, 0x3F#8, 0x80#8, 0x00#8, 0x00#8, 0x00#8, 0x00#8, 0x00#8, 0x00#8, 0xBF#8, 0x80#8, 0x00#8, 0x00#8, 0x7F#8, 0xC0#8, 0x00#8, 0x01#8, 0x00#8, 0x00#8, 0x00#8, 0x01#8, 0xFF#8, 0xFF#8, 0xFF#8, 0xFF#8] ++ List.replicate 0 0#8) =
      .encCalibration 0x3F800000#32 0x00000000#32 0xBF800000#32 0x7FC00001#32 0x00000001#32 0xFFFFFFFF#32 := by decide

/-- 30_encoding R57, 70_reset R190: the request 0D F0, zeros after it. -/
theorem test_decode_encGpioDdr :
    decodeEnc ([0x0D#8, 0xF0#8] ++ List.replicate 23 0#8) =
      .encGpioDdr 0xF0#8 := by decide

/-- 30_encoding R57, 70_reset R190: the request 0E 3C, zeros after it. -/
theorem test_decode_encGpioPort :
    decodeEnc ([0x0E#8, 0x3C#8] ++ List.replicate 23 0#8) =
      .encGpioPort 0x3C#8 := by decide

/-- 30_encoding R57, 70_reset R190: the request 0F 01, zeros after it. -/
theorem test_decode_encPower :
    decodeEnc ([0x0F#8, 0x01#8] ++ List.replicate 23 0#8) =
      .encPower 0x01#8 := by decide

/-- 30_encoding R57, 70_reset R190: the request 10, zeros after it. -/
theorem test_decode_encBootload :
    decodeEnc ([0x10#8] ++ List.replicate 24 0#8) =
      .encBootload := by decide

/-- 30_encoding R59: tags that name no kind, with whatever payload. -/
theorem test_decode_encTagOnly : decodeEnc (0b00010001#8 :: List.replicate 24 0x55#8) = .encTagOnly 0x11#8 ∧
    decodeEnc (0b11111111#8 :: List.replicate 24 0#8) = .encTagOnly 0xFF#8 := by decide

/-- The host's table words: each row of `rx_byte`, and a step from reset that runs it. -/
theorem test_tableWord : decodeTableWord 8 0xC0 = some .endFrame ∧ decodeTableWord 8 0xDB = some .esc ∧
    decodeTableWord 8 0xDC = some .escEnd ∧ decodeTableWord 8 0xDD = some .escEsc ∧
    decodeTableWord 8 0x41 = some (.lit 0x41#8) := by decide

theorem test_withFetchWord : rxIs (step (State.reset.withFetchWord 8 0x41)) [0x41#8] false none none = true := by decide

/-! ## The un-stuffer: 95_test_vectors section 2.1 -/

theorem test_endFrame_V3 : rxIs (exec .endFrame (rxOf [0x05#8, 0xA5#8] false)) [] false (some (.gpio 0xA5#8)) none = true := by decide

theorem test_endFrame_V5 : rxIs (exec .endFrame (rxOf [0x05#8] false)) [] false none (some .badLen) = true := by decide

theorem test_esc_V7 : rxIs (exec .esc (rxOf [0x03#8, 0x00#8, 0x01#8] false)) [0x03#8, 0x00#8, 0x01#8] true none none = true := by decide

theorem test_esc_V21 : rxIs (exec .esc (rxOf (List.replicate 25 0x41#8) false)) (List.replicate 25 0x41#8) true none none = true := by decide

theorem test_escEnd_V9 : rxIs (exec .escEnd (rxOf [0x03#8, 0x00#8, 0x01#8] true)) [0x03#8, 0x00#8, 0x01#8, 0xC0#8] false none none = true := by decide

theorem test_escEnd_V10 : rxIs (exec .escEnd (rxOf [0x03#8, 0x00#8, 0x01#8] false)) [0x03#8, 0x00#8, 0x01#8, 0xDC#8] false none none = true := by decide

theorem test_escEsc_V11 : rxIs (exec .escEsc (rxOf [0x03#8, 0x00#8, 0x01#8] true)) [0x03#8, 0x00#8, 0x01#8, 0xDB#8] false none none = true := by decide

theorem test_escEsc_V12 : rxIs (exec .escEsc (rxOf [0x03#8, 0x00#8, 0x01#8] false)) [0x03#8, 0x00#8, 0x01#8, 0xDD#8] false none none = true := by decide

theorem test_lit_V14 : rxIs (exec (.lit 0x41#8) (rxOf [0x03#8, 0x00#8, 0x01#8] true)) [0x03#8, 0x00#8, 0x01#8, 0x41#8] false none none = true := by decide

theorem test_lit_V18 : rxIs (exec (.lit 0x41#8) (rxOf (List.replicate 25 0x41#8) false)) [] false none (some .overflow) = true := by decide

/-- V22: a full accumulation closes normally. -/
theorem test_feed_V22 : rxIs (feed 0xC0#8 (rxOf (0x0C#8 :: List.replicate 24 0x00#8) false)) [] false
    (some (.calibration 0#32 0#32 0#32 0#32 0#32 0#32)) none = true := by decide

/-- V19: the resolved delimiter of a full accumulation is lost. -/
theorem test_feed_V19 : rxIs (feed 0xDC#8 (rxOf (List.replicate 25 0x41#8) true)) [] false none (some .overflow) = true := by
  decide

/-! ## The packet decoder: the examples of 42_packet_decode -/

theorem test_decQuaternion : decIs (exec .decQuaternion (rxOf [0x00#8, 0x3F#8, 0x80#8, 0x00#8, 0x00#8, 0x00#8, 0x00#8, 0x00#8, 0x00#8, 0x00#8, 0x00#8, 0x00#8, 0x00#8, 0x00#8, 0x00#8, 0x00#8, 0x00#8] false)) (some (.quaternion 0x3F800000#32 0x00000000#32 0x00000000#32 0x00000000#32)) none = true := by
  decide

theorem test_decAccel : decIs (exec .decAccel (rxOf [0x01#8, 0x7F#8, 0xFF#8, 0x80#8, 0x00#8, 0x00#8, 0x01#8] false)) (some (.accel 0x7FFF#16 0x8000#16 0x0001#16)) none = true := by
  decide

theorem test_decGyro : decIs (exec .decGyro (rxOf [0x02#8, 0x00#8, 0x10#8, 0xFF#8, 0xF0#8, 0x12#8, 0x34#8] false)) (some (.gyro 0x0010#16 0xFFF0#16 0x1234#16)) none = true := by
  decide

theorem test_decMag : decIs (exec .decMag (rxOf [0x03#8, 0xC0#8, 0xDB#8, 0xDC#8, 0xDD#8, 0x00#8, 0x00#8] false)) (some (.mag 0xC0DB#16 0xDCDD#16 0x0000#16)) none = true := by
  decide

theorem test_decTemperature : decIs (exec .decTemperature (rxOf [0x04#8, 0x41#8, 0xC8#8, 0x00#8, 0x00#8] false)) (some (.temperature 0x41C80000#32)) none = true := by
  decide

theorem test_decGpio : decIs (exec .decGpio (rxOf [0x05#8, 0xA5#8] false)) (some (.gpio 0xA5#8)) none = true := by
  decide

theorem test_decColor : decIs (exec .decColor (rxOf [0x06#8, 0xFF#8, 0x00#8, 0x80#8] false)) (some (.color 0xFF#8 0x00#8 0x80#8)) none = true := by
  decide

theorem test_decBlink : decIs (exec .decBlink (rxOf [0x07#8, 0x01#8, 0x02#8, 0x03#8] false)) (some (.blink 0x01#8 0x02#8 0x03#8)) none = true := by
  decide

theorem test_decIr : decIs (exec .decIr (rxOf [0x08#8, 0x0F#8] false)) (some (.ir 0x0F#8)) none = true := by
  decide

theorem test_decStream : decIs (exec .decStream (rxOf [0x09#8, 0x07#8] false)) (some (.stream 0x07#8)) none = true := by
  decide

theorem test_decVersion : decIs (exec .decVersion (rxOf [0x0A#8, 0x00#8, 0x01#8, 0x02#8, 0x03#8] false)) (some (.version 0x00010203#32)) none = true := by
  decide

theorem test_decDeviceId : decIs (exec .decDeviceId (rxOf [0x0B#8, 0xDE#8, 0xAD#8, 0xBE#8, 0xEF#8] false)) (some (.deviceId 0xDEADBEEF#32)) none = true := by
  decide

theorem test_decCalibration : decIs (exec .decCalibration (rxOf [0x0C#8, 0x3F#8, 0x80#8, 0x00#8, 0x00#8, 0x00#8, 0x00#8, 0x00#8, 0x00#8, 0xBF#8, 0x80#8, 0x00#8, 0x00#8, 0x7F#8, 0xC0#8, 0x00#8, 0x01#8, 0x00#8, 0x00#8, 0x00#8, 0x01#8, 0xFF#8, 0xFF#8, 0xFF#8, 0xFF#8] false)) (some (.calibration 0x3F800000#32 0x00000000#32 0xBF800000#32 0x7FC00001#32 0x00000001#32 0xFFFFFFFF#32)) none = true := by
  decide

theorem test_decGpioDdr : decIs (exec .decGpioDdr (rxOf [0x0D#8, 0xF0#8] false)) (some (.gpioDdr 0xF0#8)) none = true := by
  decide

theorem test_decGpioPort : decIs (exec .decGpioPort (rxOf [0x0E#8, 0x3C#8] false)) (some (.gpioPort 0x3C#8)) none = true := by
  decide

theorem test_decPower : decIs (exec .decPower (rxOf [0x0F#8, 0x01#8] false)) (some (.power 0x01#8)) none = true := by
  decide

theorem test_decBootload : decIs (exec .decBootload (rxOf [0x10#8] false)) (some .bootload) none = true := by
  decide

/-- R119: `05 A5 00` has the wrong length. -/
theorem test_decGpio_long : decIs (exec .decGpio (rxOf [0x05#8, 0xA5#8, 0x00#8] false)) none (some .badLen) = true := by decide

/-- R118: the closed frame `11 00`. -/
theorem test_badTag : decIs (exec (.badTag 0x11#8) (rxOf [0x11#8, 0x00#8] false)) none (some .badTag) = true := by decide

/-! ## The stuffer: 95_test_vectors T1 to T7 -/

theorem test_stuffEnd_T1 : outIs (exec .stuffEnd State.reset) [0xDB#8, 0xDC#8] = true := by decide

theorem test_stuffEsc_T2 : outIs (exec .stuffEsc State.reset) [0xDB#8, 0xDD#8] = true := by decide

theorem test_stuffPass_T3 : outIs (exec (.stuffPass 0xDC#8) State.reset) [0xDC#8] = true := by decide

theorem test_stuffPass_T5 : outIs (exec (.stuffPass 0x00#8) State.reset) [0x00#8] = true := by decide

theorem test_terminate_T7 : outIs (exec .terminate State.reset) [0xC0#8] = true := by decide

/-! ## The packet encoder: the examples of 43_packet_encode, raw frame and wire frame -/

theorem test_encQuaternion : rawIs (exec (.encQuaternion 0x3F800000#32 0x00000000#32 0x00000000#32 0x00000000#32) State.reset) [0x00#8, 0x3F#8, 0x80#8, 0x00#8, 0x00#8, 0x00#8, 0x00#8, 0x00#8, 0x00#8, 0x00#8, 0x00#8, 0x00#8, 0x00#8, 0x00#8, 0x00#8, 0x00#8, 0x00#8] = true := by
  decide

theorem test_encQuaternion_wire : outIs (encodePacket (.quaternion 0x3F800000#32 0x00000000#32 0x00000000#32 0x00000000#32) State.reset)
    [0x00#8, 0x3F#8, 0x80#8, 0x00#8, 0x00#8, 0x00#8, 0x00#8, 0x00#8, 0x00#8, 0x00#8, 0x00#8, 0x00#8, 0x00#8, 0x00#8, 0x00#8, 0x00#8, 0x00#8, 0xC0#8] = true := by
  decide

theorem test_encAccel : rawIs (exec (.encAccel 0x7FFF#16 0x8000#16 0x0001#16) State.reset) [0x01#8, 0x7F#8, 0xFF#8, 0x80#8, 0x00#8, 0x00#8, 0x01#8] = true := by
  decide

theorem test_encAccel_wire : outIs (encodePacket (.accel 0x7FFF#16 0x8000#16 0x0001#16) State.reset)
    [0x01#8, 0x7F#8, 0xFF#8, 0x80#8, 0x00#8, 0x00#8, 0x01#8, 0xC0#8] = true := by
  decide

theorem test_encGyro : rawIs (exec (.encGyro 0x0010#16 0xFFF0#16 0x1234#16) State.reset) [0x02#8, 0x00#8, 0x10#8, 0xFF#8, 0xF0#8, 0x12#8, 0x34#8] = true := by
  decide

theorem test_encGyro_wire : outIs (encodePacket (.gyro 0x0010#16 0xFFF0#16 0x1234#16) State.reset)
    [0x02#8, 0x00#8, 0x10#8, 0xFF#8, 0xF0#8, 0x12#8, 0x34#8, 0xC0#8] = true := by
  decide

theorem test_encMag : rawIs (exec (.encMag 0xC0DB#16 0xDCDD#16 0x0000#16) State.reset) [0x03#8, 0xC0#8, 0xDB#8, 0xDC#8, 0xDD#8, 0x00#8, 0x00#8] = true := by
  decide

theorem test_encMag_wire : outIs (encodePacket (.mag 0xC0DB#16 0xDCDD#16 0x0000#16) State.reset)
    [0x03#8, 0xDB#8, 0xDC#8, 0xDB#8, 0xDD#8, 0xDC#8, 0xDD#8, 0x00#8, 0x00#8, 0xC0#8] = true := by
  decide

theorem test_encTemperature : rawIs (exec (.encTemperature 0x41C80000#32) State.reset) [0x04#8, 0x41#8, 0xC8#8, 0x00#8, 0x00#8] = true := by
  decide

theorem test_encTemperature_wire : outIs (encodePacket (.temperature 0x41C80000#32) State.reset)
    [0x04#8, 0x41#8, 0xC8#8, 0x00#8, 0x00#8, 0xC0#8] = true := by
  decide

theorem test_encGpio : rawIs (exec (.encGpio 0xA5#8) State.reset) [0x05#8, 0xA5#8] = true := by
  decide

theorem test_encGpio_wire : outIs (encodePacket (.gpio 0xA5#8) State.reset)
    [0x05#8, 0xA5#8, 0xC0#8] = true := by
  decide

theorem test_encColor : rawIs (exec (.encColor 0xFF#8 0x00#8 0x80#8) State.reset) [0x06#8, 0xFF#8, 0x00#8, 0x80#8] = true := by
  decide

theorem test_encColor_wire : outIs (encodePacket (.color 0xFF#8 0x00#8 0x80#8) State.reset)
    [0x06#8, 0xFF#8, 0x00#8, 0x80#8, 0xC0#8] = true := by
  decide

theorem test_encBlink : rawIs (exec (.encBlink 0x01#8 0x02#8 0x03#8) State.reset) [0x07#8, 0x01#8, 0x02#8, 0x03#8] = true := by
  decide

theorem test_encBlink_wire : outIs (encodePacket (.blink 0x01#8 0x02#8 0x03#8) State.reset)
    [0x07#8, 0x01#8, 0x02#8, 0x03#8, 0xC0#8] = true := by
  decide

theorem test_encIr : rawIs (exec (.encIr 0x0F#8) State.reset) [0x08#8, 0x0F#8] = true := by
  decide

theorem test_encIr_wire : outIs (encodePacket (.ir 0x0F#8) State.reset)
    [0x08#8, 0x0F#8, 0xC0#8] = true := by
  decide

theorem test_encStream : rawIs (exec (.encStream 0x07#8) State.reset) [0x09#8, 0x07#8] = true := by
  decide

theorem test_encStream_wire : outIs (encodePacket (.stream 0x07#8) State.reset)
    [0x09#8, 0x07#8, 0xC0#8] = true := by
  decide

theorem test_encVersion : rawIs (exec (.encVersion 0x00010203#32) State.reset) [0x0A#8, 0x00#8, 0x01#8, 0x02#8, 0x03#8] = true := by
  decide

theorem test_encVersion_wire : outIs (encodePacket (.version 0x00010203#32) State.reset)
    [0x0A#8, 0x00#8, 0x01#8, 0x02#8, 0x03#8, 0xC0#8] = true := by
  decide

theorem test_encDeviceId : rawIs (exec (.encDeviceId 0xDEADBEEF#32) State.reset) [0x0B#8, 0xDE#8, 0xAD#8, 0xBE#8, 0xEF#8] = true := by
  decide

theorem test_encDeviceId_wire : outIs (encodePacket (.deviceId 0xDEADBEEF#32) State.reset)
    [0x0B#8, 0xDE#8, 0xAD#8, 0xBE#8, 0xEF#8, 0xC0#8] = true := by
  decide

theorem test_encCalibration : rawIs (exec (.encCalibration 0x3F800000#32 0x00000000#32 0xBF800000#32 0x7FC00001#32 0x00000001#32 0xFFFFFFFF#32) State.reset) [0x0C#8, 0x3F#8, 0x80#8, 0x00#8, 0x00#8, 0x00#8, 0x00#8, 0x00#8, 0x00#8, 0xBF#8, 0x80#8, 0x00#8, 0x00#8, 0x7F#8, 0xC0#8, 0x00#8, 0x01#8, 0x00#8, 0x00#8, 0x00#8, 0x01#8, 0xFF#8, 0xFF#8, 0xFF#8, 0xFF#8] = true := by
  decide

theorem test_encCalibration_wire : outIs (encodePacket (.calibration 0x3F800000#32 0x00000000#32 0xBF800000#32 0x7FC00001#32 0x00000001#32 0xFFFFFFFF#32) State.reset)
    [0x0C#8, 0x3F#8, 0x80#8, 0x00#8, 0x00#8, 0x00#8, 0x00#8, 0x00#8, 0x00#8, 0xBF#8, 0x80#8, 0x00#8, 0x00#8, 0x7F#8, 0xDB#8, 0xDC#8, 0x00#8, 0x01#8, 0x00#8, 0x00#8, 0x00#8, 0x01#8, 0xFF#8, 0xFF#8, 0xFF#8, 0xFF#8, 0xC0#8] = true := by
  decide

theorem test_encGpioDdr : rawIs (exec (.encGpioDdr 0xF0#8) State.reset) [0x0D#8, 0xF0#8] = true := by
  decide

theorem test_encGpioDdr_wire : outIs (encodePacket (.gpioDdr 0xF0#8) State.reset)
    [0x0D#8, 0xF0#8, 0xC0#8] = true := by
  decide

theorem test_encGpioPort : rawIs (exec (.encGpioPort 0x3C#8) State.reset) [0x0E#8, 0x3C#8] = true := by
  decide

theorem test_encGpioPort_wire : outIs (encodePacket (.gpioPort 0x3C#8) State.reset)
    [0x0E#8, 0x3C#8, 0xC0#8] = true := by
  decide

theorem test_encPower : rawIs (exec (.encPower 0x01#8) State.reset) [0x0F#8, 0x01#8] = true := by
  decide

theorem test_encPower_wire : outIs (encodePacket (.power 0x01#8) State.reset)
    [0x0F#8, 0x01#8, 0xC0#8] = true := by
  decide

theorem test_encBootload : rawIs (exec .encBootload State.reset) [0x10#8] = true := by
  decide

theorem test_encBootload_wire : outIs (encodePacket .bootload State.reset)
    [0x10#8, 0xC0#8] = true := by
  decide

/-- R148's example: a tag outside `ENC_HANDLED` sends `05 C0`. -/
theorem test_enc_unsupported : outIs (encodePacket (.gpio 0xA5#8) few) [0x05#8, 0xC0#8] = true := by decide

/-- R148's example: tag 0xC0 at the port sends `DB DC C0`. -/
theorem test_encTagOnly : outIs (encodeRequest 0xC0#8 0 State.reset) [0xDB#8, 0xDC#8, 0xC0#8] = true := by decide

/-! ## Witnesses: for every obligation with hypotheses, data that meet them together -/

/-- A machine with samples waiting. -/
def waiting (s : State) (q : List PortsIn) : State := { s with input := q }

/-- An answered step of the packet `p`, as the output ports show it. -/
def answered : State :=
  { State.reset with
      rx := { Decoder.reset with pkt := some (.gpio 0xA5#8), frameReady := true }
      tx := { Encoder.reset with encDone := true, pos := 51 } }

theorem witness_StepKeepsInvariant : MachineInv (waiting (rxOf [0x05#8, 0xA5#8] true) [.feed 0xC0#8]) ∧
    ∃ t, step (waiting (rxOf [0x05#8, 0xA5#8] true) [.feed 0xC0#8]) = .next t := ⟨by decide, exists_next (by decide)⟩

theorem witness_StepNeverStops : MachineInv State.reset ∧ BufferOk State.reset := by decide

/-- A byte, with values on the ports it does not use. -/
def byteOnly : PortsIn := { PortsIn.feed 0x41#8 with encTag := 0x2A#8, encPayload := 0xA5#192 }

/-- A request, with a value on the byte port. -/
def requestOnly : PortsIn := { PortsIn.encode 0x11#8 0xA5#192 with rxByte := 0xC0#8 }

/-- A byte and a request in one sample. -/
def both : PortsIn := { PortsIn.encode 0x11#8 0 with rxValid := true, rxByte := 0xC0#8 }

/-- No control line is up, and every other port holds a value. -/
def noise : PortsIn := { PortsIn.idle with rxByte := 0xC0#8, encTag := 0x10#8, encPayload := 0xA5#192 }

theorem witness_StepRuns_byte : (waiting State.reset [byteOnly]).input = byteOnly :: [] ∧ byteOnly.rst = false ∧
    byteOnly.rxValid = true ∧ byteOnly.encReq = false ∧ decode .rxByte [byteOnly.rxByte] = .ok (.lit 0x41#8, []) ∧
    WellFormed (.lit 0x41#8) = true := by decide

theorem witness_StepRuns_request : (waiting State.reset [requestOnly]).input = requestOnly :: [] ∧ requestOnly.rst = false ∧
    requestOnly.rxValid = false ∧ requestOnly.encReq = true ∧
    decode .encTag (requestOnly.encTag :: portBytes requestOnly.encPayload) = .ok (.encTagOnly 0x11#8, []) ∧
    WellFormed (.encTagOnly 0x11#8) = true := by decide

theorem witness_StepRuns_both : (waiting State.reset [both]).input = both :: [] ∧ both.rst = false ∧ both.rxValid = true ∧
    both.encReq = true ∧ decode .rxByte [both.rxByte] = .ok (.endFrame, []) ∧
    decode .encTag (both.encTag :: portBytes both.encPayload) = .ok (.encTagOnly 0x11#8, []) ∧
    WellFormed .endFrame = true ∧ WellFormed (.encTagOnly 0x11#8) = true := by decide

theorem witness_StepRuns_nothing : (waiting State.reset [noise]).input = noise :: [] ∧ noise.rst = false ∧
    noise.rxValid = false ∧ noise.encReq = false ∧ State.reset.input = [] := by decide

/-- A reset with a byte, and one with a request too. -/
theorem witness_ResetSampleWinsOverByte :
    (waiting (rxOf [0x05#8] true) [{ PortsIn.feed 0xA5#8 with rst := true }]).input = { PortsIn.feed 0xA5#8 with rst := true } :: [] ∧
      ({ PortsIn.feed 0xA5#8 with rst := true } : PortsIn).rst = true ∧
      ({ PortsIn.feed 0xA5#8 with rst := true } : PortsIn).encReq = false ∧
      (waiting few [{ both with rst := true }]).input = { both with rst := true } :: [] ∧
      ({ both with rst := true } : PortsIn).rst = true ∧ ({ both with rst := true } : PortsIn).encReq = true := by decide

/-- Each clause: nothing at all, a request, and an empty queue, in a machine with a frame in progress. -/
theorem witness_IdleStepHoldsTheState : (waiting (rxOf [0x05#8] true) [noise]).input = noise :: [] ∧ noise.rst = false ∧
    noise.rxValid = false ∧ noise.encReq = false ∧
    (waiting (rxOf [0x05#8] true) [requestOnly]).input = requestOnly :: [] ∧ requestOnly.rst = false ∧
    requestOnly.rxValid = false ∧ MachineInv (waiting (rxOf [0x05#8] true) [requestOnly]) ∧
    BufferOk (waiting (rxOf [0x05#8] true) [requestOnly]) ∧ (rxOf [0x05#8] true).input = [] := by decide

theorem witness_IdleStepHoldsTheState_answered :
    ∃ t, step (waiting (rxOf [0x05#8] true) [requestOnly]) = .next t := exists_next (by decide)

theorem witness_OnlyDelimiterStepsDeliver :
    ∃ t, step (waiting (rxOf [0x05#8, 0xA5#8] false) [.feed 0xC0#8]) = .next t ∧ t.rx.frameReady = true := ⟨_, rfl, rfl⟩

theorem witness_StepKeepsTheConfiguration : ∃ t, step (waiting few [.encode 0x05#8 0]) = .next t := exists_next (by decide)

theorem witness_EscSetsEscapePending : ∃ t, feed 0xDB#8 (rxOf [0x05#8] false) = .next t ∧ t.rx.esc = true := ⟨_, rfl, rfl⟩

/-- Both branches of the appender at their boundaries: 0, 24 and 25 bytes, with and without a pending escape. -/
theorem witness_EscEndAppends : MachineInv (rxOf [] true) ∧ MachineInv (rxOf (List.replicate 24 0x41#8) false) ∧
    MachineInv (rxOf (List.replicate 25 0x41#8) true) :=
  ⟨by decide, by decide, by decide⟩

theorem witness_EscEscAppends : MachineInv (rxOf [] false) ∧ MachineInv (rxOf (List.replicate 24 0x41#8) true) ∧
    MachineInv (rxOf (List.replicate 25 0x41#8) false) :=
  ⟨by decide, by decide, by decide⟩

theorem witness_LitAppendsItsByte : WellFormed (.lit 0x00#8) = true ∧ MachineInv (rxOf (List.replicate 24 0x41#8) true) ∧
    MachineInv (rxOf (List.replicate 25 0x41#8) true) := by decide

/-- Both branches of `END`: an accepted and a rejected accumulation, and none. -/
theorem witness_EndClosesTheFrame :
    decodePacket (rxOf [0x05#8, 0xA5#8] true).rx.buf 2 = .ok (.gpio 0xA5#8) ∧
    decodePacket (rxOf [0x05#8] false).rx.buf 1 = .error .badLen ∧ State.reset.rx.len.toNat = 0 := by decide

theorem witness_EndRunsTheSelectedDecode : 0 < (rxOf [0x10#8] false).rx.len.toNat := by decide

theorem witness_EscapePending : MachineInv (rxOf [0x05#8] true) ∧ 0xDB#8 ≠ 0xDC#8 ∧ 0xDB#8 ≠ 0xDD#8 := by decide

/-- Both directions: an accepted closing and one of a wrong length. -/
theorem witness_FrameReadyExactly : MachineInv (rxOf [0x10#8] false) ∧ (rxOf [0x10#8] false).rx.buf.read 0 = Kind.bootload.tag ∧
    (rxOf [0x10#8] false).rx.len.toNat = Kind.bootload.size ∧ MachineInv (rxOf [0x10#8, 0x10#8] false) := by decide

theorem witness_StrayIntroducer : 0xC0#8 ≠ 0xDC#8 ∧ 0xC0#8 ≠ 0xDD#8 := by decide

/-- The whole capacity, with an escaped delimiter as its last byte. -/
theorem witness_FeedAccumulatesDeEscape : MachineInv State.reset ∧ State.reset.rx.len = 0 ∧ State.reset.rx.esc = false ∧
    0xC0#8 ∉ List.replicate 24 0x41#8 ++ [0xDB#8, 0xDC#8] ∧
    (deEscape (List.replicate 24 0x41#8 ++ [0xDB#8, 0xDC#8])).length = Config.maxUnpacked := by decide

theorem witness_LongRunCountsModulo26 : MachineInv (rxOf [] true) ∧ (rxOf [] true).rx.len = 0 ∧
    0xC0#8 ∉ List.replicate 26 0x41#8 ∧ (deEscapeFrom true (List.replicate 26 0x41#8)).length % 26 = 0 ∧
    (deEscapeFrom true (List.replicate 27 0x41#8)).length % 26 = 1 := by decide

/-- Two decoders that differ above `len` only. -/
theorem witness_EntriesAboveLength :
    (MachineInv (rxOf [0x05#8] true) ∧
      MachineInv { rxOf [0x05#8] true with rx := { (rxOf [0x05#8] true).rx with buf := [(0, 0x05#8), (24, 0xFF#8)] } }) ∧
    closedFrame (rxOf [0x05#8] true).rx =
      closedFrame { (rxOf [0x05#8] true).rx with buf := [(0, 0x05#8), (24, 0xFF#8)] } ∧
    (rxOf [0x05#8] true).rx.buf ≠ [(0, 0x05#8), (24, 0xFF#8)] := ⟨by decide, by decide, by decide⟩

theorem witness_DelimiterErasesThePast : MachineInv (rxOf (List.replicate 25 0x41#8) true) ∧ MachineInv few := by decide

theorem witness_WireFrameDelivers : MachineInv State.reset ∧ State.reset.rx.len = 0 ∧ State.reset.rx.esc = false := by decide

theorem witness_NextFrameAfterAnyState : MachineInv (rxOf (List.replicate 25 0x41#8) true) := by decide

theorem witness_DecodePacketInvertsRaw : 0 < 1 ∧ (rxOf [0x10#8] false).rx.buf.bytes 1 = Packet.bootload.raw := by decide

theorem witness_InvalidTag : 0 < (rxOf [0x11#8] false).rx.len.toNat ∧ 17 ≤ ((rxOf [0x11#8] false).rx.buf.read 0).toNat ∧
    17 ≤ ((rxOf [0xFF#8] false).rx.buf.read 0).toNat := by decide

/-- One byte too few and one too many. -/
theorem witness_WrongLength : 0 < (rxOf [0x05#8] false).rx.len.toNat ∧ (rxOf [0x05#8] false).rx.buf.read 0 = Kind.gpio.tag ∧
    (rxOf [0x05#8] false).rx.len.toNat ≠ Kind.gpio.size ∧
    (rxOf [0x05#8, 0xA5#8, 0x00#8] false).rx.len.toNat ≠ Kind.gpio.size := by decide

theorem witness_CalibrationDecodes : (rxOf (0x0C#8 :: List.replicate 24 0xFF#8) false).rx.len.toNat = 25 ∧
    (rxOf (0x0C#8 :: List.replicate 23 0xFF#8) false).rx.len.toNat < 25 := by decide

theorem witness_NumericPacketsDecode : (rxOf (0x00#8 :: List.replicate 16 0xFF#8) false).rx.len.toNat = 17 ∧
    (rxOf (0x01#8 :: List.replicate 6 0xFF#8) false).rx.len.toNat = 7 ∧
    (rxOf (0x02#8 :: List.replicate 6 0xFF#8) false).rx.len.toNat = 7 ∧
    (rxOf (0x03#8 :: List.replicate 6 0xFF#8) false).rx.len.toNat = 7 ∧
    (rxOf (0x04#8 :: List.replicate 4 0xFF#8) false).rx.len.toNat = 5 ∧
    (rxOf (0x0A#8 :: List.replicate 4 0xFF#8) false).rx.len.toNat = 5 ∧
    (rxOf (0x0B#8 :: List.replicate 4 0xFF#8) false).rx.len.toNat = 5 := by decide

theorem witness_BytePacketsDecode : (rxOf [0x05#8, 0xFF#8] false).rx.len.toNat = 2 ∧
    (rxOf [0x06#8, 0xFF#8, 0x00#8, 0x80#8] false).rx.len.toNat = 4 ∧
    (rxOf [0x07#8, 0x01#8, 0x02#8, 0x03#8] false).rx.len.toNat = 4 ∧ (rxOf [0x08#8, 0x00#8] false).rx.len.toNat = 2 ∧
    (rxOf [0x09#8, 0x00#8] false).rx.len.toNat = 2 ∧ (rxOf [0x0D#8, 0x00#8] false).rx.len.toNat = 2 ∧
    (rxOf [0x0E#8, 0x00#8] false).rx.len.toNat = 2 ∧ (rxOf [0x0F#8, 0x00#8] false).rx.len.toNat = 2 := by decide

theorem witness_BootloadDecodes : (rxOf [0x10#8] false).rx.len.toNat = 1 ∧ (rxOf [0x10#8, 0x00#8] false).rx.len.toNat ≠ 1 := by decide

theorem witness_DecodeInstructionsReject : (rxOf [0x0C#8] false).rx.len.toNat ≠ Kind.calibration.size := by decide

/-- A raw escape code that arrives without a pending escape. -/
theorem witness_StufferPassIsAppended : WellFormed (.stuffPass 0xDD#8) = true ∧ MachineInv (rxOf [0x05#8] false) ∧
    (rxOf [0x05#8] false).rx.esc = false ∧ MachineInv (rxOf (List.replicate 24 0x41#8) false) ∧
    (rxOf (List.replicate 24 0x41#8) false).rx.len.toNat < Config.maxUnpacked := by decide

/-- Room at the first and the last position of each emission. -/
theorem witness_StufferEmitsTheImage : MachineInv (txAt 0 51) ∧ Room (txAt 0 51) 2 ∧ MachineInv (txAt 49 51) ∧ Room (txAt 49 51) 2 ∧
    WellFormed (.stuffPass 0xDC#8) = true ∧ MachineInv (txAt 50 51) ∧ Room (txAt 50 51) 1 :=
  ⟨by decide, by decide, by decide, by decide, by decide, by decide, by decide⟩

theorem witness_EscapeLengthCounts : MachineInv (txAt 49 51) ∧ Room (txAt 49 51) (escape [0xC0#8]).length ∧
    Room (txAt 50 51) (escape [0x41#8]).length := by decide

/-- A raw frame of one byte, and one of 25. -/
theorem witness_TerminateEndsTheFrame : (MachineInv (txAt 50 64) ∧ Room (txAt 50 64) 1) ∧
    (MachineInv { State.reset with tx := { Encoder.reset with rawLen := 1 } } ∧
      BufferOk { State.reset with tx := { Encoder.reset with rawLen := 1 } }) ∧
    MachineInv { State.reset with tx := { Encoder.reset with rawLen := 25 } } ∧
      BufferOk { State.reset with tx := { Encoder.reset with rawLen := 25 } } :=
  ⟨by decide, by decide, by decide, by decide⟩

theorem witness_ShortOutputBuffer : (txAt 0 50).tx.outSize < Config.packetMaxSize ∧
    (Instr.encTagOnly 0x2A#8).space = .encTag := by decide

theorem witness_FloatPacketsBuildRaw : State.reset.handles 0x00#8 = true ∧ State.reset.handles 0x04#8 = true ∧
    State.reset.handles 0x0C#8 = true := by decide

theorem witness_VersionAndDeviceIdBuildRaw : State.reset.handles 0x0A#8 = true ∧ State.reset.handles 0x0B#8 = true := by decide

theorem witness_Int16TriplesBuildRaw : State.reset.handles 0x01#8 = true ∧ State.reset.handles 0x02#8 = true ∧
    State.reset.handles 0x03#8 = true := by decide

theorem witness_BytePacketsBuildRaw : State.reset.handles 0x05#8 = true ∧ State.reset.handles 0x06#8 = true ∧
    State.reset.handles 0x07#8 = true ∧ State.reset.handles 0x08#8 = true ∧ State.reset.handles 0x09#8 = true ∧
    State.reset.handles 0x0D#8 = true ∧ State.reset.handles 0x0E#8 = true ∧ State.reset.handles 0x0F#8 = true := by decide

/-- What the statements about raw frames ask of the machine for an answer on the wire. -/
theorem witness_SendsPayload : MachineInv (txAt 0 51) ∧ BufferOk (txAt 0 51) ∧
    (Packet.quaternion 0 0 0 0).kind ∈ [Kind.quaternion, Kind.temperature, Kind.calibration] ∧
    (txAt 0 51).handles Kind.quaternion.tag = true ∧ (Packet.mag 0 0 0).kind ∈ [Kind.accel, Kind.gyro, Kind.mag] ∧
    (txAt 0 51).handles Kind.mag.tag = true ∧ (txAt 0 51).handles Kind.power.tag = true := by decide

theorem witness_UnsupportedTags : emitsPayload few (.gpio 0xA5#8) = false := by decide

/-- With the payload and without it. -/
theorem witness_EncodeStep : MachineInv (txAt 0 51) ∧ BufferOk (txAt 0 51) ∧ emitsPayload (txAt 0 51) (.gpio 0xA5#8) = true ∧
    MachineInv few ∧ BufferOk few ∧ emitsPayload few (.gpio 0xA5#8) = false := by decide

theorem witness_InvalidTagRequest : 17 ≤ (0x11#8).toNat ∧ 17 ≤ (0xC0#8).toNat ∧ MachineInv few ∧ BufferOk few := by decide

/-- With the payload, without it, and tags that name no kind, one of them escaped. -/
theorem witness_EncodedLengthBounds : MachineInv State.reset ∧ MachineInv few ∧
    (Instr.encTagOnly 0xC0#8).space = .encTag ∧ WellFormed (.encTagOnly 0xC0#8) = true ∧
    WellFormed (.encTagOnly 0x11#8) = true ∧ emitsPayload State.reset (.gpio 0xC0#8) = true ∧
    emitsPayload few (.gpio 0xC0#8) = false := by decide

theorem witness_EncodedLengthBounds_answered : (∃ t, encodePacket (.gpio 0xC0#8) State.reset = .next t) ∧
    (∃ t, encodePacket (.gpio 0xC0#8) few = .next t) ∧
    (∃ t, encodeInstr (.encTagOnly 0xC0#8) State.reset = .next t) ∧
    ∃ t, encodeInstr (.encTagOnly 0x11#8) State.reset = .next t :=
  ⟨exists_next (by decide), exists_next (by decide), exists_next (by decide), exists_next (by decide)⟩

theorem witness_EncodeResultDepends : (Instr.encGpio 0xA5#8).space = .encTag ∧ MachineInv (rxOf [0x05#8] true) ∧
    MachineInv (txAt 7 64) ∧ BufferOk (rxOf [0x05#8] true) ∧ BufferOk (txAt 7 64) ∧
    (rxOf [0x05#8] true).cfg = (txAt 7 64).cfg := by decide

theorem witness_EncodeThenFeed : MachineInv State.reset ∧ BufferOk State.reset ∧ State.reset.rx.len = 0 ∧ State.reset.rx.esc = false ∧
    emitsPayload State.reset (.gpio 0xC0#8) = true ∧ MachineInv few ∧ emitsPayload few .bootload = true := by decide

/-- One instruction of each space. -/
theorem witness_PathsShareNoState : (∃ t, exec (.lit 0x41#8) State.reset = .next t) ∧ (∃ t, exec .decGpio State.reset = .next t) ∧
    (∃ t, exec .stuffEnd State.reset = .next t) ∧ (∃ t, exec .terminate State.reset = .next t) ∧
    ∃ t, exec (.encGpio 0xA5#8) State.reset = .next t :=
  ⟨exists_next (by decide), exists_next (by decide), exists_next (by decide), exists_next (by decide), exists_next (by decide)⟩

theorem witness_EncodeCommutesWithFeed : (Instr.encGpio 0xA5#8).space = .encTag ∧
    (∃ t, feed 0xC0#8 (rxOf [0x05#8, 0xA5#8] false) = .next t) ∧
    ∃ t, encodeInstr (.encGpio 0xA5#8) (rxOf [0x05#8, 0xA5#8] false) = .next t :=
  ⟨by decide, exists_next (by decide), exists_next (by decide)⟩

/-- Two instances, each with a sample of its own. -/
def two : System := [waiting (rxOf [0x05#8] false) [.feed 0xA5#8], waiting State.reset [.feed 0x41#8]]

theorem witness_InstancesAreIndependent : two[1]? = some (waiting State.reset [.feed 0x41#8]) ∧
    (∃ t, step (waiting State.reset [.feed 0x41#8]) = .next t) ∧ ∃ sys, System.run [1, 0, 1] two = .next sys :=
  ⟨by decide, exists_next (by decide), exists_next (by decide)⟩

theorem witness_InstancesAreIndependent_inv : ∀ s ∈ two, MachineInv s ∧ BufferOk s := by decide

/-- An instance that stops: a request in a short buffer, and an accumulation length that no run reaches. -/
theorem witness_InstancesAreIndependent_stops :
    step (waiting (txAt 0 50) [.encode 0x10#8 0]) = .refused .outputBufferTooSmall ∧
    step (waiting { State.reset with rx := { Decoder.reset with len := 26 } } [.feed 0x41#8]) = .fault .bufIndex :=
  ⟨rfl, rfl⟩

/-- A step of the first instance leaves the second where it was. -/
theorem test_stepAt : (match System.stepAt 0 two with
    | .next sys => closedFrame (sys.getD 0 State.reset).rx == [0x05#8, 0xA5#8] && sys[1]? == two[1]?
    | _ => false) = true := by decide

/-- The first and the last byte of a payload, and of the output buffer. -/
theorem witness_OutputPorts : answered.rx.pkt = some (.gpio 0xA5#8) ∧ 0 < (Packet.gpio 0xA5#8).payload.length ∧
    23 < (Packet.calibration 0 0 0 0 0 0).payload.length ∧ answered.tx.encDone = true ∧ 50 < answered.tx.pos.toNat ∧
    50 < Config.packetMaxSize := by decide

theorem witness_RequestPort : (portBytes (0xA5#8 ++ 0#184)).take (Packet.gpio 0xA5#8).payload.length = (Packet.gpio 0xA5#8).payload := by
  decide

theorem witness_DecodeInvertsEncode : WellFormed (.lit 0xDE#8) = true ∧ WellFormed (.stuffPass 0xDC#8) = true ∧
    WellFormed (.badTag 0x11#8) = true ∧ WellFormed (.encTagOnly 0xFF#8) = true := by decide

/-- A request, and a byte with another behind it. -/
theorem witness_DecodeAnswersWellFormed : decode .rxByte [0xC0#8, 0x05#8] = .ok (.endFrame, [0x05#8]) ∧
    decode .encTag (0x10#8 :: List.replicate 24 0x55#8) = .ok (.encBootload, []) := by decide

theorem witness_FieldsAreBigEndian : Memory.wf [] ∧ Memory.wf [(0, 0x41#8)] := by decide

/-! ## The step from the spec's own programs -/

/-- 70_reset R190: reset wins over a byte of the same sample. -/
theorem test_reset_wins :
    rxIs (step (waiting (rxOf [0x05#8] true) [{ PortsIn.feed 0xA5#8 with rst := true }])) [] false none none = true := by decide

/-- 70_reset R190: a sample without a control line holds the state, whatever its other ports hold. -/
theorem test_noise : rxIs (step (waiting (rxOf [0x05#8] true) [noise])) [0x05#8] true none none = true := by decide

/-- 95 P5 step 4: a request for tag 0x2A sends `2A C0`. -/
theorem test_step_P5 : outIs (step (waiting State.reset [.encode 0x2A#8 0])) [0x2A#8, 0xC0#8] = true := by decide

/-- 70_reset R190: the ports of a delivered `Gpio(0xA5)`: its tag, and its payload byte at bits 191 to 184. -/
theorem test_ports : answered.ports.pktTag = 0x05#8 ∧ pktPayloadByte answered 0 = 0xA5#8 ∧ answered.ports.txLen = 51#6 := by decide

/-- 70_reset R184: a caller's buffer of 50 bytes is refused, one of 51 is not. -/
theorem test_buffer : isNext (exec .terminate (txAt 0 50)) = false ∧ isNext (exec .terminate (txAt 0 51)) = true := by decide

end Sys2Proof.Tests
end

/-! # 10_state: the escape-pending flag (R13) and the encode result (R16) -/

namespace Sys2Proof

/-- Is this tag in `ENC_HANDLED` (43_packet_encode R130)? A function of the parameters alone. -/
def Config.handles (cfg : Config) (tag : Byte) : Bool :=
  if h : tag.toNat < 16 then cfg.encHandled[tag.toNat] else false

end Sys2Proof

namespace Sys2Proof.Machine

open Sys2Proof.Safety

/-! ## The instruction an input byte selects (30_encoding R51) -/

/-- The five classes of an input byte, each with its instruction. -/
theorem decodeRx_cases (b : Byte) :
    (b = Config.delim ∧ decodeRx b = .endFrame) ∨ (b = Config.escIntro ∧ decodeRx b = .esc) ∨
    (b = Config.escDelim ∧ decodeRx b = .escEnd) ∨ (b = Config.escEsc ∧ decodeRx b = .escEsc) ∨
    ((b ≠ Config.delim ∧ b ≠ Config.escIntro ∧ b ≠ Config.escDelim ∧ b ≠ Config.escEsc) ∧ decodeRx b = .lit b) := by
  unfold decodeRx
  split_ifs <;> simp_all

/-! ## The escape-pending flag (10_state R13) -/

/-- `ESC_END` appends like `LIT` of the byte its code stands for (40_unstuffer R73). -/
theorem exec_escEnd (s : State) :
    exec .escEnd s = execLit (resolveEsc s.rx.esc Config.delim Config.escDelim) s := rfl

/-- `ESC_ESC` appends like `LIT` of the byte its code stands for (40_unstuffer R74). -/
theorem exec_escEsc (s : State) :
    exec .escEsc s = execLit (resolveEsc s.rx.esc Config.escIntro Config.escEsc) s := rfl

/-- Under the invariant an appending byte completes and clears the flag. -/
theorem execLit_clears_esc {s : State} (v : Byte) (h : RxInv s.rx) :
    ∃ t, execLit v s = .next t ∧ t.rx.esc = false := by
  obtain ⟨d, hd, -⟩ := accAppend_next v h
  exact ⟨{ s with rx := d.clearEsc }, by simp [execLit, hd, onRx], rfl⟩

/-- After a byte the flag says whether the byte was the escape introducer. -/
theorem feed_esc {s : State} (b : Byte) (h : RxInv s.rx) :
    ∃ t, feed b s = .next t ∧ (t.rx.esc = true ↔ b = Config.escIntro) := by
  have clears (i : Instr) (hi : decodeRx b = i) (hb : b ≠ Config.escIntro)
      (hx : ∃ t, exec i s = .next t ∧ t.rx.esc = false) :
      ∃ t, feed b s = .next t ∧ (t.rx.esc = true ↔ b = Config.escIntro) := by
    obtain ⟨t, ht, hesc⟩ := hx
    exact ⟨t, by rw [feed, hi, ht], by simp [hesc, hb]⟩
  rcases decodeRx_cases b with ⟨rfl, hi⟩ | ⟨rfl, hi⟩ | ⟨rfl, hi⟩ | ⟨rfl, hi⟩ | ⟨⟨-, hb, -, -⟩, hi⟩
  · exact clears _ hi (by decide) ⟨_, rfl, rfl⟩
  · exact ⟨_, by rw [feed, hi]; rfl, by simp⟩
  · exact clears _ hi (by decide) (exec_escEnd s ▸ execLit_clears_esc _ h)
  · exact clears _ hi (by decide) (exec_escEsc s ▸ execLit_clears_esc _ h)
  · exact clears _ hi hb (execLit_clears_esc b h)

/-- The decoder with another value of the escape-pending flag. -/
def Decoder.withEsc (d : Decoder) (e : Bool) : Decoder := { d with esc := e }

/-- The machine with another value of the escape-pending flag. -/
def State.withEsc (s : State) (e : Bool) : State := { s with rx := s.rx.withEsc e }

/-- Closing a frame passes the flag through. -/
theorem Decoder.closeFrame_withEsc (d : Decoder) (e : Bool) : (d.withEsc e).closeFrame = d.closeFrame.withEsc e := by
  rcases Nat.eq_zero_or_pos d.len.toNat with h | h
  · rw [closeFrame_empty h, closeFrame_empty (d := d.withEsc e) h]; rfl
  · rw [closeFrame_some h, closeFrame_some (d := d.withEsc e) h]
    change Decoder.answer _ (decodePacket d.buf d.len.toNat) = _
    cases decodePacket d.buf d.len.toNat <;> rfl

/-- The appending byte does not read the flag. -/
theorem execLit_withEsc (v : Byte) (s : State) (e : Bool) : execLit v (s.withEsc e) = execLit v s := by
  have hlen : (s.withEsc e).rx.len = s.rx.len := rfl
  unfold execLit accAppend
  rw [hlen]
  split_ifs <;> rfl

/-- Only the escape codes read the flag. -/
theorem feed_withEsc {b : Byte} (hc : b ≠ Config.escDelim) (hd : b ≠ Config.escEsc) (s : State) (e : Bool) :
    feed b (s.withEsc e) = feed b s := by
  rcases decodeRx_cases b with ⟨-, hi⟩ | ⟨-, hi⟩ | ⟨hb, -⟩ | ⟨hb, -⟩ | ⟨-, hi⟩
  · rw [feed, feed, hi]
    change execEndFrame (s.withEsc e) = execEndFrame s
    have hclose : (s.withEsc e).rx.closeFrame = s.rx.closeFrame.withEsc e := s.rx.closeFrame_withEsc e
    rw [execEndFrame, execEndFrame, hclose]
    rfl
  · rw [feed, feed, hi]; rfl
  · exact absurd hb hc
  · exact absurd hb hd
  · rw [feed, feed, hi]; exact execLit_withEsc b s e

/-- Settles O16: the flag after a byte by `feed_esc`, its readers by `feed_withEsc`. -/
theorem escapePendingIffIntroducer : Obligations.EscapePendingIffIntroducer := by
  unfold Obligations.EscapePendingIffIntroducer
  exact ⟨fun b s h => feed_esc b h.1, fun b s e hc hd => feed_withEsc hc hd s e⟩

/-! ## Emitting a byte sequence (20_memory R43) -/

theorem Memory.writeBytes_append (m : Memory) (a : Nat) (xs ys : List Byte) :
    m.writeBytes a (xs ++ ys) = (m.writeBytes a xs).writeBytes (a + xs.length) ys := by
  induction xs generalizing m a with
  | nil => rfl
  | cons x xs ih =>
    have hidx : a + 1 + xs.length = a + (x :: xs).length := by simp only [List.length_cons]; omega
    rw [List.cons_append, Memory.writeBytes, Memory.writeBytes, ih, hidx]

/-- The bytes written from index 0 on are the bytes that stand there. -/
theorem Memory.bytes_writeBytes_zero {m : Memory} (h : m.wf) (bs : List Byte) :
    (m.writeBytes 0 bs).bytes bs.length = bs := by
  refine List.ext_getElem (by simp) fun i h1 h2 => ?_
  rw [Memory.getElem_bytes, Memory.read_writeBytes h]
  simp [h2]

/-- The transmit path after the bytes `bs` are emitted in order at the output position. -/
def Encoder.emitBytes (e : Encoder) (bs : List Byte) : Encoder :=
  { e with out := e.out.writeBytes e.pos.toNat bs, pos := e.pos + BitVec.ofNat 6 bs.length }

/-- What `Safety.Room s n` asks of the transmit path `s.tx`: the two are equal by unfolding. -/
abbrev Encoder.Room (e : Encoder) (n : Nat) : Prop :=
  Config.packetMaxSize ≤ e.outSize ∧ e.pos.toNat + n ≤ Config.packetMaxSize

theorem Encoder.emitBytes_nil (e : Encoder) : e.emitBytes [] = e := by
  simp [Encoder.emitBytes, Memory.writeBytes]

theorem Encoder.emitBytes_pos_toNat {e : Encoder} {bs : List Byte} (h : e.Room bs.length) :
    (e.emitBytes bs).pos.toNat = e.pos.toNat + bs.length := by
  have hpos : e.pos.toNat + bs.length ≤ 51 := h.2
  simp only [Encoder.emitBytes, BitVec.toNat_add, BitVec.toNat_ofNat]
  omega

/-- Emitting two sequences one after the other emits their concatenation. -/
theorem Encoder.emitBytes_emitBytes {e : Encoder} {xs : List Byte} (h : e.Room xs.length) (ys : List Byte) :
    (e.emitBytes xs).emitBytes ys = e.emitBytes (xs ++ ys) := by
  rw [Encoder.emitBytes, Encoder.emitBytes_pos_toNat h]
  simp only [Encoder.emitBytes, Memory.writeBytes_append, List.length_append, BitVec.ofNat_add, BitVec.add_assoc]

/-- After the emission of `xs`, what was room for `xs ++ ys` is room for `ys`. -/
theorem Encoder.room_emitBytes {e : Encoder} {xs ys : List Byte} (h : e.Room (xs ++ ys).length) :
    e.Room xs.length ∧ (e.emitBytes xs).Room ys.length := by
  obtain ⟨hsize, hpos⟩ := h
  rw [List.length_append] at hpos
  have hx : e.Room xs.length := ⟨hsize, by omega⟩
  exact ⟨hx, hsize, by rw [Encoder.emitBytes_pos_toNat hx]; omega⟩

theorem emit_eq_emitBytes {e : Encoder} (b : Byte) (h : e.Room 1) : emit e b = .next (e.emitBytes [b]) :=
  emit_room b h.1 h.2

/-- Two emissions in a row emit the two bytes. -/
theorem emit_emit_eq_emitBytes {e : Encoder} (b c : Byte) (h : e.Room 2) :
    andThen (emit e b) (fun e => emit e c) = .next (e.emitBytes [b, c]) := by
  obtain ⟨hb, hc⟩ := Encoder.room_emitBytes (xs := [b]) (ys := [c]) h
  rw [emit_eq_emitBytes b hb, andThen_next, emit_eq_emitBytes c hc, Encoder.emitBytes_emitBytes hb]
  rfl

/-! ## The stuffer and `EmitFrame` (41_stuffer R85 to R91) -/

/-- The machine after the bytes `bs` are emitted. -/
def State.emitBytes (s : State) (bs : List Byte) : State := { s with tx := s.tx.emitBytes bs }

/-- `STUFF` emits the image of its byte. -/
theorem stuff_eq_emitBytes {s : State} (r : Byte) (h : Room s (escapeByte r).length) :
    stuff r s = .next (s.emitBytes (escapeByte r)) := by
  unfold stuff decodeTx escapeByte at *
  split_ifs at h ⊢
  · simp only [exec, execStuffEnd, emit_emit_eq_emitBytes _ _ h]; rfl
  · simp only [exec, execStuffEsc, emit_emit_eq_emitBytes _ _ h]; rfl
  · simp only [exec, execStuffPass, emit_eq_emitBytes _ h]; rfl

/-- `STUFF` of every byte of a sequence emits its image. -/
theorem stuffAll_eq_emitBytes {s : State} (rs : List Byte) (h : Room s (escape rs).length) :
    stuffAll rs s = .next (s.emitBytes (escape rs)) := by
  induction rs generalizing s with
  | nil => simp [stuffAll, escape, State.emitBytes, Encoder.emitBytes_nil]
  | cons r rs ih =>
    obtain ⟨hr, hrs⟩ := Encoder.room_emitBytes h
    rw [stuffAll, stuff_eq_emitBytes r hr, andThen_next, ih hrs]
    simp only [State.emitBytes, escape, Encoder.emitBytes_emitBytes hr]

/-- `TERMINATE` emits the delimiter. -/
theorem terminate_eq_emitBytes {s : State} (h : Room s 1) :
    exec .terminate s = .next (s.emitBytes [Config.delim]) := by
  simp only [exec, execTerminate, emit_eq_emitBytes _ h]; rfl

theorem length_escapeByte_le (r : Byte) : (escapeByte r).length ≤ 2 := by
  unfold escapeByte
  split_ifs <;> simp

theorem length_escape_le (rs : List Byte) : (escape rs).length ≤ 2 * rs.length := by
  induction rs with
  | nil => simp [escape]
  | cons r rs ih =>
    have := length_escapeByte_le r
    simp only [escape, List.length_append, List.length_cons]
    omega

/-- The wire frame of a raw frame of at most 25 bytes fits the output buffer (30_encoding R61). -/
theorem length_wireFrame_le {rs : List Byte} (h : rs.length ≤ Config.maxUnpacked) :
    (wireFrame rs).length ≤ Config.packetMaxSize := by
  have hlen : rs.length ≤ 25 := h
  have hesc := length_escape_le rs
  simp only [wireFrame, List.length_append, List.length_singleton, Config.packetMaxSize]
  omega

/-- At the start of `EmitFrame` there is room for the whole wire frame. -/
theorem room_wireFrame {s : State} (hbuf : BufferOk s) (hraw : s.tx.rawLen.toNat ≤ Config.maxUnpacked) :
    s.tx.startFrame.Room (wireFrame s.tx.rawBytes).length := by
  have hlen : s.tx.rawBytes.length ≤ Config.maxUnpacked := by simpa [Encoder.rawBytes] using hraw
  exact ⟨hbuf, by simpa using length_wireFrame_le hlen⟩

/-- `EmitFrame` emits the wire frame of the raw frame from position 0 on, whatever the output buffer held. -/
theorem emitFrame_eq {s : State} (hbuf : BufferOk s) (hraw : s.tx.rawLen.toNat ≤ Config.maxUnpacked) :
    emitFrame s =
      .next { s with tx := (s.tx.startFrame.emitBytes (wireFrame s.tx.rawBytes)).finishFrame } := by
  obtain ⟨hesc, hend⟩ := Encoder.room_emitBytes (room_wireFrame hbuf hraw)
  rw [emitFrame, stuffAll_eq_emitBytes _ hesc, andThen_next, terminate_eq_emitBytes hend, andThen_next]
  simp only [State.emitBytes, Encoder.emitBytes_emitBytes hesc, wireFrame]

/-- The answer of `EmitFrame` is the wire frame of the raw frame. -/
theorem emitFrame_result {s : State} (hbuf : BufferOk s) (hraw : s.tx.rawLen.toNat ≤ Config.maxUnpacked)
    (hout : s.tx.out.wf) : ∃ t, emitFrame s = .next t ∧ t.tx.result = wireFrame s.tx.rawBytes := by
  refine ⟨_, emitFrame_eq hbuf hraw, ?_⟩
  rw [Encoder.result, Encoder.finishFrame_pos, Encoder.emitBytes_pos_toNat (room_wireFrame hbuf hraw)]
  simpa [Encoder.emitBytes] using Memory.bytes_writeBytes_zero hout (wireFrame s.tx.rawBytes)

/-! ## The raw frame an encode instruction builds (43_packet_encode R130 to R148) -/

theorem State.handles_eq (s : State) (tag : Byte) : s.handles tag = s.cfg.handles tag := rfl

/-- Under the parameters `cfg` an operation sets one raw frame of at most 25 bytes, the same in every machine. -/
def BuildsRaw (cfg : Config) (f : State → Answer State) : Prop :=
  ∃ m n, n ≤ Config.maxUnpacked ∧ ∀ s, s.cfg = cfg → f s = .next { s with tx := s.tx.setRaw m n }

theorem tagOnly_buildsRaw (cfg : Config) (tag : Byte) : BuildsRaw cfg (tagOnly tag) :=
  ⟨rawStart tag, 1, by decide, fun _ _ => rfl⟩

/-- Whether the payload is written depends on the parameters alone. -/
theorem encodeAs_buildsRaw (cfg : Config) (k : Kind) (raw : Memory) : BuildsRaw cfg (encodeAs k raw) := by
  cases hh : cfg.handles k.tag
  · obtain ⟨m, n, hn, hm⟩ := tagOnly_buildsRaw cfg k.tag
    exact ⟨m, n, hn, fun s hs => by simp [encodeAs, State.handles_eq, hs, hh, hm s hs]⟩
  · exact ⟨raw, k.size, k.size_le, fun s hs => by simp [encodeAs, State.handles_eq, hs, hh]⟩

/-- Every encode instruction builds a raw frame from its own fields and the parameters alone. -/
theorem exec_buildsRaw (cfg : Config) {i : Instr} (h : i.space = .encTag) : BuildsRaw cfg (exec i) := by
  cases i
  case encQuaternion | encAccel | encGyro | encMag | encTemperature | encGpio | encColor | encBlink | encIr | encStream
      | encVersion | encDeviceId | encCalibration | encGpioDdr | encGpioPort | encPower =>
    exact encodeAs_buildsRaw cfg _ _
  case encBootload => exact tagOnly_buildsRaw cfg 0x10#8
  case encTagOnly tag => exact tagOnly_buildsRaw cfg tag
  all_goals cases h

/-- An encode request is answered with the wire frame of the raw frame its instruction builds. -/
theorem encodeInstr_result {i : Instr} {s : State} {m : Memory} {n : Nat}
    (hexec : exec i s = .next { s with tx := s.tx.setRaw m n }) (hn : n ≤ Config.maxUnpacked)
    (hbuf : BufferOk s) (hout : s.tx.out.wf) :
    ∃ t, encodeInstr i s = .next t ∧ t.tx.result = wireFrame (m.bytes n) := by
  have hlen : (BitVec.ofNat 5 n).toNat = n := by
    have : n ≤ 25 := hn
    rw [BitVec.toNat_ofNat]; omega
  have hraw : (s.tx.setRaw m n).rawBytes = m.bytes n := by simp [Encoder.rawBytes, hlen]
  rw [encodeInstr, hexec, andThen_next, ← hraw]
  exact emitFrame_result (s := { s with tx := s.tx.setRaw m n }) hbuf (hlen.trans_le hn) hout

/-- Settles O48: both machines build the same raw frame (`exec_buildsRaw`) and answer its wire frame. -/
theorem encodeResultDependsOnPacketAlone : Obligations.EncodeResultDependsOnPacketAlone := by
  unfold Obligations.EncodeResultDependsOnPacketAlone
  intro i s1 s2 hi ⟨_, _, _, _, hout1, _⟩ ⟨_, _, _, _, hout2, _⟩ hbuf1 hbuf2 hcfg
  obtain ⟨m, n, hn, hexec⟩ := exec_buildsRaw s2.cfg hi
  obtain ⟨t1, h1, hr1⟩ := encodeInstr_result (hexec s1 hcfg) hn hbuf1 hout1
  obtain ⟨t2, h2, hr2⟩ := encodeInstr_result (hexec s2 rfl) hn hbuf2 hout2
  exact ⟨t1, t2, h1, h2, hr1.trans hr2.symm⟩

end Sys2Proof.Machine

/-! # 20_memory: the byte order of multi-byte fields (R31) -/

namespace Sys2Proof.Machine

/-! ## Writing consecutive bytes, one byte at a time -/

/-- The first byte written stands at its index; the rest is as if only the bytes behind it were written. -/
theorem Memory.read_writeBytes_cons {m : Memory} (h : m.wf) (a : Nat) (v : Byte) (vs : List Byte) (b : Nat) :
    (m.writeBytes a (v :: vs)).read b = if b = a then v else (m.writeBytes (a + 1) vs).read b := by
  rw [Memory.writeBytes, Memory.read_writeBytes (Memory.wf_write a v h), Memory.read_writeBytes h, Memory.read_write h]
  by_cases hb : b = a
  · simp [hb]
  · simp only [hb, if_false]

/-- Writing the bytes that stand there changes no read. -/
theorem Memory.read_writeBytes_self {m : Memory} (h : m.wf) (a n b : Nat) :
    (m.writeBytes a ((List.range' a n).map m.read)).read b = m.read b := by
  induction n generalizing a with
  | zero => rfl
  | succ n ih =>
    rw [List.range'_succ, List.map_cons, Memory.read_writeBytes_cons h, ih]
    split_ifs with hb
    · rw [hb]
    · rfl

/-! ## `MemWrite` puts the most significant byte first -/

theorem read_memWrite2 {m : Memory} (h : m.wf) (a : Nat) (v : Half) (b : Nat) :
    (memWrite2 m a v).read b =
      if b = a then v.extractLsb 15 8 else if b = a + 1 then v.extractLsb 7 0 else m.read b := by
  rw [memWrite2, bytes16, Memory.read_writeBytes_cons h, Memory.read_writeBytes_cons h]
  rfl

theorem read_memWrite4 {m : Memory} (h : m.wf) (a : Nat) (v : Word) (b : Nat) :
    (memWrite4 m a v).read b =
      if b = a then v.extractLsb 31 24 else if b = a + 1 then v.extractLsb 23 16
      else if b = a + 2 then v.extractLsb 15 8 else if b = a + 3 then v.extractLsb 7 0 else m.read b := by
  rw [memWrite4, bytes32, Memory.read_writeBytes_cons h, Memory.read_writeBytes_cons h, Memory.read_writeBytes_cons h,
    Memory.read_writeBytes_cons h]
  rfl

/-! ## No conversion loses a bit -/

theorem memRead2_memWrite2 {m : Memory} (h : m.wf) (a : Nat) (v : Half) : memRead2 (memWrite2 m a v) a = v := by
  have hread : memRead2 (memWrite2 m a v) a = be16 (v.extractLsb 15 8) (v.extractLsb 7 0) := by
    simp [memRead2, read_memWrite2 h]
  exact hread.trans (be16_bytes16 v)

theorem memRead4_memWrite4 {m : Memory} (h : m.wf) (a : Nat) (v : Word) : memRead4 (memWrite4 m a v) a = v := by
  have hread : memRead4 (memWrite4 m a v) a =
      be32 (v.extractLsb 31 24) (v.extractLsb 23 16) (v.extractLsb 15 8) (v.extractLsb 7 0) := by
    simp [memRead4, read_memWrite4 h]
  exact hread.trans (be32_bytes32 v)

theorem read_memWrite2_memRead2 {m : Memory} (h : m.wf) (a b : Nat) :
    (memWrite2 m a (memRead2 m a)).read b = m.read b := by
  rw [memWrite2, memRead2, bytes16_be16]
  exact Memory.read_writeBytes_self h a 2 b

theorem read_memWrite4_memRead4 {m : Memory} (h : m.wf) (a b : Nat) :
    (memWrite4 m a (memRead4 m a)).read b = m.read b := by
  rw [memWrite4, memRead4, bytes32_be32]
  exact Memory.read_writeBytes_self h a 4 b

/-- Settles O60: the reads are concatenations by definition, the writes are `read_memWrite2` and `read_memWrite4`, and each
direction of the round trip has its lemma. -/
theorem fieldsAreBigEndian : Obligations.FieldsAreBigEndian := by
  unfold Obligations.FieldsAreBigEndian
  refine ⟨fun m a => ⟨rfl, rfl, rfl⟩, fun m a v h b => Memory.read_write h a v b,
    fun m a v h b => read_memWrite2 h a v b, fun m a v h b => read_memWrite4 h a v b, fun m a h => ?_⟩
  exact ⟨memRead2_memWrite2 h a, memRead4_memWrite4 h a, read_memWrite2_memRead2 h a, read_memWrite4_memRead4 h a⟩

end Sys2Proof.Machine

/-! # 30_encoding: the size table (R56) and the delimiter of a frame (R63) -/

namespace Sys2Proof.Machine

open Sys2Proof.Safety

/-! ## The image of one raw byte (41_stuffer R85 to R88) -/

/-- The three images of a raw byte: an escape pair for each reserved byte, and any other byte itself. -/
theorem escapeByte_cases (r : Byte) :
    escapeByte r = [0xDB#8, 0xDC#8] ∨ escapeByte r = [0xDB#8, 0xDD#8] ∨
    (r ≠ 0xC0#8 ∧ r ≠ 0xDB#8) ∧ escapeByte r = [r] := by
  unfold escapeByte
  split_ifs <;> simp_all

theorem delim_notMem_escapeByte (r : Byte) : 0xC0#8 ∉ escapeByte r := by
  rcases escapeByte_cases r with h | h | ⟨⟨hdelim, -⟩, h⟩ <;> rw [h]
  · decide
  · decide
  · simpa using hdelim.symm

/-- No image holds a delimiter, so no stuffed sequence does. -/
theorem delim_notMem_escape (raw : List Byte) : 0xC0#8 ∉ escape raw := by
  induction raw with
  | nil => simp [escape]
  | cons r rs ih => simpa [escape] using ⟨delim_notMem_escapeByte r, ih⟩

/-- The delimiter of a wire frame stands at its last position and nowhere else. -/
theorem getElem?_wireFrame_eq_delim_iff (raw : List Byte) (i : Nat) :
    (wireFrame raw)[i]? = some 0xC0#8 ↔ i = (escape raw).length := by
  rw [wireFrame]
  rcases lt_trichotomy i (escape raw).length with hi | rfl | hi
  · rw [List.getElem?_append_left hi]
    exact iff_of_false (fun h => delim_notMem_escape raw (List.mem_of_getElem? h)) hi.ne
  · simp
  · rw [List.getElem?_eq_none (by simpa using hi)]
    simp [hi.ne']

/-! ## The escape pairs of a stuffed sequence -/

/-- Every introducer of the sequence is the first byte of a pair `DB DC` or `DB DD`, both bytes inside the sequence. -/
def IntroducersPaired (bs : List Byte) : Prop :=
  ∀ i, bs[i]? = some 0xDB#8 → bs[i + 1]? = some 0xDC#8 ∨ bs[i + 1]? = some 0xDD#8

/-- A pair lies inside one part of a concatenation. -/
theorem IntroducersPaired.append {xs ys : List Byte} (hx : IntroducersPaired xs) (hy : IntroducersPaired ys) :
    IntroducersPaired (xs ++ ys) := by
  intro i h
  rcases lt_or_ge i xs.length with hi | hi
  · rw [List.getElem?_append_left hi] at h
    have second {c : Byte} (hc : xs[i + 1]? = some c) : (xs ++ ys)[i + 1]? = some c := by
      obtain ⟨hlt, -⟩ := List.getElem?_eq_some_iff.mp hc
      rw [List.getElem?_append_left hlt, hc]
    exact (hx i h).imp second second
  · rw [List.getElem?_append_right hi] at h
    rw [List.getElem?_append_right (by omega), Nat.sub_add_comm hi]
    exact hy _ h

/-- An escape pair has its introducer first, and a byte that stands for itself is no introducer. -/
theorem introducersPaired_escapeByte (r : Byte) : IntroducersPaired (escapeByte r) := by
  have pair (c : Byte) (hne : c ≠ 0xDB#8) (hc : c = 0xDC#8 ∨ c = 0xDD#8) : IntroducersPaired [0xDB#8, c] := by
    intro i h
    match i with
    | 0 => simpa using hc
    | 1 => exact absurd (by simpa using h) hne
    | _ + 2 => simp at h
  rcases escapeByte_cases r with h | h | ⟨⟨-, hintro⟩, h⟩ <;> rw [h]
  · exact pair _ (by decide) (.inl rfl)
  · exact pair _ (by decide) (.inr rfl)
  · intro i hi
    exact absurd (List.mem_singleton.mp (List.mem_of_getElem? hi)).symm hintro

theorem introducersPaired_escape (raw : List Byte) : IntroducersPaired (escape raw) := by
  induction raw with
  | nil => simp [IntroducersPaired, escape]
  | cons r rs ih => exact (introducersPaired_escapeByte r).append ih

/-- Settles O38: no image holds a delimiter, and each introducer is paired inside the image of its raw byte. -/
theorem delimiterNeverInsideAFrame : Obligations.DelimiterNeverInsideAFrame := by
  unfold Obligations.DelimiterNeverInsideAFrame
  exact fun raw => ⟨delim_notMem_escape raw, getElem?_wireFrame_eq_delim_iff raw, introducersPaired_escape raw⟩

/-- Settles O56: the three columns are closed lists, and a size is the tag byte and the payload by definition. -/
theorem sizeTableValues : Obligations.SizeTableValues := by
  unfold Obligations.SizeTableValues
  exact ⟨by decide, by decide, by decide, fun _ => rfl⟩

end Sys2Proof.Machine

/-! # 40_unstuffer: the escape introducer (R72) -/

namespace Sys2Proof.Machine

open Sys2Proof.Safety

/-- `ESC` sets the flag of the decoder with its outputs cleared (40_unstuffer R72). -/
theorem exec_esc (s : State) : exec .esc s = .next { s with rx := s.rx.quiet.setEsc } := rfl

/-- An appending byte that completes leaves no escape pending, whatever the state it started in. -/
theorem esc_of_execLit_eq_next {v : Byte} {s t : State} (h : execLit v s = .next t) : t.rx.esc = false := by
  obtain ⟨d, hd, rfl⟩ := onRx_eq_next h
  obtain ⟨a, -, ha⟩ := andThen_eq_next hd
  cases ha
  rfl

/-- `END` leaves no escape pending (40_unstuffer R71). -/
theorem esc_of_exec_endFrame_eq_next {s t : State} (h : exec .endFrame s = .next t) : t.rx.esc = false := by
  cases h
  rfl

/-- A byte after which an escape is pending was the introducer: every other class of byte clears the flag. -/
theorem decodeRx_eq_esc_of_feed {b : Byte} {s t : State} (h : feed b s = .next t) (hesc : t.rx.esc = true) :
    decodeRx b = .esc := by
  have notCleared (hclear : t.rx.esc = false) : decodeRx b = .esc := by simp [hclear] at hesc
  rcases decodeRx_cases b with ⟨-, hi⟩ | ⟨-, hi⟩ | ⟨-, hi⟩ | ⟨-, hi⟩ | ⟨-, hi⟩ <;> rw [feed, hi] at h
  · exact notCleared (esc_of_exec_endFrame_eq_next h)
  · exact hi
  · exact notCleared (esc_of_execLit_eq_next (exec_escEnd s ▸ h))
  · exact notCleared (esc_of_execLit_eq_next (exec_escEsc s ▸ h))
  · exact notCleared (esc_of_execLit_eq_next h)

/-- Settles O10: the effect of `ESC` by `exec_esc`, the flag after any other byte by `decodeRx_eq_esc_of_feed`. -/
theorem escSetsEscapePending : Obligations.EscSetsEscapePending := by
  unfold Obligations.EscSetsEscapePending
  refine ⟨by decide, fun s => ⟨_, exec_esc s, ?_⟩, fun b s t => decodeRx_eq_esc_of_feed⟩
  simp [SameBuf, Silent, OnlyRx]

end Sys2Proof.Machine

/-! # 41_stuffer: the images of the raw bytes (R86 to R89) and the wire frame (R90, R91) -/

namespace Sys2Proof.Machine

open Sys2Proof.Safety

/-! ## What an emission changes (20_memory R43) -/

/-- `s.emitBytes bs` is what `Emitted` and its frame `OnlyOut` describe. -/
theorem emitted_emitBytes {s : State} {bs : List Byte} (hout : s.tx.out.wf) (h : Room s bs.length) :
    Emitted s (s.emitBytes bs) bs ∧ OnlyOut s (s.emitBytes bs) :=
  ⟨⟨Encoder.emitBytes_pos_toNat h, Memory.read_writeBytes hout _ bs⟩, ⟨rfl, rfl, rfl, rfl⟩, rfl, rfl, rfl, rfl⟩

/-- At and above the new position the output buffer reads as before. -/
theorem Encoder.read_emitBytes_of_pos_le {e : Encoder} {bs : List Byte} (hout : e.out.wf) (h : e.Room bs.length) {a : Nat}
    (ha : (e.emitBytes bs).pos.toNat ≤ a) : (e.emitBytes bs).out.read a = e.out.read a := by
  rw [Encoder.emitBytes_pos_toNat h] at ha
  rw [Encoder.emitBytes, Memory.read_writeBytes hout, if_neg (by omega)]

/-- `STUFF` emits the image of its byte and changes nothing else (41_stuffer R85). -/
theorem stuff_emits {s : State} (r : Byte) (hs : MachineInv s) (h : Room s (escapeByte r).length) :
    ∃ t, stuff r s = .next t ∧ Emitted s t (escapeByte r) ∧ OnlyOut s t := by
  obtain ⟨-, -, -, -, hout, -⟩ := hs
  exact ⟨_, stuff_eq_emitBytes r h, emitted_emitBytes hout h⟩

/-- `TERMINATE` emits the delimiter and changes nothing else (41_stuffer R90). -/
theorem terminate_emits {s : State} (hs : MachineInv s) (h : Room s 1) :
    ∃ t, exec .terminate s = .next t ∧ Emitted s t [Config.delim] ∧ OnlyOut s t := by
  obtain ⟨-, -, -, -, hout, -⟩ := hs
  exact ⟨_, terminate_eq_emitBytes h, emitted_emitBytes hout h⟩

/-! ## Bytes that pass (41_stuffer R88) -/

/-- The operand of `STUFF.PASS` is neither of the two bytes that need escaping (30_encoding R53). -/
theorem wellFormed_stuffPass_iff {r : Byte} :
    WellFormed (.stuffPass r) = true ↔ r ≠ Config.delim ∧ r ≠ Config.escIntro := by
  simp [WellFormed, isPassByte]

theorem decodeTx_pass {r : Byte} (h : WellFormed (.stuffPass r) = true) : decodeTx r = .stuffPass r := by
  obtain ⟨hdelim, hintro⟩ := wellFormed_stuffPass_iff.mp h
  simp [decodeTx, hdelim, hintro]

theorem escapeByte_pass {r : Byte} (h : WellFormed (.stuffPass r) = true) : escapeByte r = [r] := by
  obtain ⟨hdelim, hintro⟩ := wellFormed_stuffPass_iff.mp h
  simp [escapeByte, hdelim, hintro]

theorem execLit_of_accAppend {v : Byte} {s : State} {d : Decoder} (h : accAppend s.rx v = .next d) :
    execLit v s = .next { s with rx := d.clearEsc } := by
  rw [execLit, h]; rfl

/-- Under the invariant an appending byte appends under the overflow policy of 20_memory R36 and changes the receive path
only. -/
theorem execLit_appends {s : State} (v : Byte) (h : RxInv s.rx) :
    ∃ t, execLit v s = .next t ∧ Appended s t v ∧ OnlyRx s t := by
  obtain ⟨hbuf, -, hlen, -⟩ := h
  rcases hlen.eq_or_lt with hfull | hroom
  · refine ⟨_, execLit_of_accAppend (accAppend_full v hfull), ?_, rfl, rfl, rfl, rfl⟩
    simp [Appended, Silent, SameBuf, hfull]
  · refine ⟨_, execLit_of_accAppend (accAppend_room v hroom), ?_, rfl, rfl, rfl, rfl⟩
    rw [Appended, if_neg hroom.ne]
    exact ⟨⟨rfl, rfl⟩, rfl, len_add_one hroom, rfl, Memory.read_write hbuf _ v⟩

/-- Without a pending escape a byte that passes is appended as it is, an escape code too. -/
theorem feed_pass_eq_execLit {r : Byte} {s : State} (h : WellFormed (.stuffPass r) = true) (hesc : s.rx.esc = false) :
    feed r s = execLit r s := by
  obtain ⟨hdelim, hintro⟩ := wellFormed_stuffPass_iff.mp h
  rcases decodeRx_cases r with ⟨hr, -⟩ | ⟨hr, -⟩ | ⟨rfl, hi⟩ | ⟨rfl, hi⟩ | ⟨-, hi⟩
  · exact absurd hr hdelim
  · exact absurd hr hintro
  · rw [feed, hi, exec_escEnd, hesc]; rfl
  · rw [feed, hi, exec_escEsc, hesc]; rfl
  · rw [feed, hi]; rfl

/-- Settles O33: the three emissions are `stuff_emits` at the class of their raw byte; a byte that passes is fed as by
`feed_pass_eq_execLit`. -/
theorem stufferEmitsTheImage : Obligations.StufferEmitsTheImage := by
  unfold Obligations.StufferEmitsTheImage
  refine ⟨⟨by decide, by decide, fun r => decodeTx_pass⟩, fun r s hr hs hesc _ => ?_, fun s => stuff_emits 0xC0#8,
    fun s => stuff_emits 0xDB#8, fun r s hr hs hroom => ?_⟩
  · obtain ⟨t, ht, happ, -⟩ := execLit_appends r hs.1
    exact ⟨t, (feed_pass_eq_execLit hr hesc).trans ht, happ⟩
  · have hemits := stuff_emits r hs (by simpa [escapeByte_pass hr] using hroom)
    rwa [stuff, decodeTx_pass hr, escapeByte_pass hr] at hemits

/-! ## The length of a stuffed sequence (41_stuffer R89) -/

theorem escape_singleton (r : Byte) : escape [r] = escapeByte r := by simp [escape]

/-- One byte for the raw byte, and one more if it needs escaping. -/
theorem length_escapeByte (r : Byte) :
    (escapeByte r).length = if (r == 0xC0#8 || r == 0xDB#8) = true then 2 else 1 := by
  unfold escapeByte
  split_ifs <;> simp_all

theorem length_escape (bs : List Byte) :
    (escape bs).length = bs.length + bs.countP (fun b => b == 0xC0#8 || b == 0xDB#8) := by
  induction bs with
  | nil => rfl
  | cons b bs ih =>
    rw [escape, List.length_append, ih, length_escapeByte, List.length_cons, List.countP_cons]
    split_ifs <;> omega

theorem length_le_length_escape (bs : List Byte) : bs.length ≤ (escape bs).length := by
  rw [length_escape]; omega

/-- Settles O36: the image of one byte by `stuff_emits`, the length law by `length_escape`. -/
theorem escapeLengthCountsReservedBytes : Obligations.EscapeLengthCountsReservedBytes := by
  unfold Obligations.EscapeLengthCountsReservedBytes
  refine ⟨rfl, fun r rs => by rw [escape_singleton, escape], fun r s hs h => ?_, fun bs =>
    ⟨length_escape bs, length_le_length_escape bs, length_escape_le bs⟩⟩
  rw [escape_singleton] at h ⊢
  exact stuff_emits r hs h

/-! ## The wire frame of the raw frame under construction (41_stuffer R91) -/

/-- A wire frame has one delimiter, and one or two bytes for each raw byte. -/
theorem length_wireFrame_bounds (raw : List Byte) :
    raw.length + 1 ≤ (wireFrame raw).length ∧ (wireFrame raw).length ≤ 2 * raw.length + 1 := by
  have hge := length_le_length_escape raw
  have hle := length_escape_le raw
  simp only [wireFrame, List.length_append, List.length_singleton]
  omega

theorem length_rawBytes (e : Encoder) : e.rawBytes.length = e.rawLen.toNat := Memory.length_bytes _ _

/-- After `EmitFrame` the position is the length of the wire frame, and `out` reads as before at and above it. -/
theorem emitFrame_frame {s t : State} (hout : s.tx.out.wf) (hbuf : BufferOk s)
    (hraw : s.tx.rawLen.toNat ≤ Config.maxUnpacked) (h : emitFrame s = .next t) :
    t.tx.pos.toNat = (wireFrame s.tx.rawBytes).length ∧
    (∀ a, t.tx.pos.toNat ≤ a → t.tx.out.read a = s.tx.out.read a) ∧ t.tx.raw = s.tx.raw ∧ t.tx.rawLen = s.tx.rawLen ∧
    t.tx.outSize = s.tx.outSize ∧ t.tx.encDone = true ∧ OnlyTx s t := by
  have hroom := room_wireFrame hbuf hraw
  cases (emitFrame_eq hbuf hraw).symm.trans h
  refine ⟨?_, fun _ => Encoder.read_emitBytes_of_pos_le (e := s.tx.startFrame) hout hroom,
    rfl, rfl, rfl, rfl, rfl, rfl, rfl, rfl⟩
  simpa using Encoder.emitBytes_pos_toNat hroom

/-- No tag of a packet kind needs escaping (41_stuffer R91). -/
theorem escapeByte_tag (k : Kind) : escapeByte k.tag = [k.tag] := by cases k <;> rfl

/-- Settles O34: the terminator by `terminate_emits`, the result of `EmitFrame` by `emitFrame_result`, its frame by
`emitFrame_frame`, and the bounds by those of the stuffed sequence. -/
theorem terminateEndsTheFrame : Obligations.TerminateEndsTheFrame := by
  unfold Obligations.TerminateEndsTheFrame
  refine ⟨fun s => terminate_emits, fun s hs hbuf _ => ?_, fun k => by rw [escape_singleton, escapeByte_tag]⟩
  obtain ⟨-, -, -, hraw, hout, -⟩ := hs
  obtain ⟨t, ht, hresult⟩ := emitFrame_result hbuf hraw hout
  obtain ⟨hpos, hkept, hrawEq, hrawLen, hsize, hdone, honly⟩ := emitFrame_frame hout hbuf hraw ht
  obtain ⟨hge, hle⟩ := length_wireFrame_bounds s.tx.rawBytes
  rw [← hpos, length_rawBytes] at hge hle
  have hmax : t.tx.pos.toNat ≤ 51 := by
    rw [hpos]; exact length_wireFrame_le ((length_rawBytes s.tx).trans_le hraw)
  exact ⟨t, ht, hresult, hdone, hge, hle, hmax, hrawEq, hrawLen, hsize, hkept, honly⟩

end Sys2Proof.Machine

/-! # 42_packet_decode: the `DEC` row of a kind (R100), its payload (R106 to R117) and its length test (R119) -/

namespace Sys2Proof.Machine

open Sys2Proof.Safety

/-! ## The instruction a valid tag selects (R100) -/

/-- The `DEC` row a kind's tag selects runs that kind's decode operation on the closed frame. -/
theorem exec_decodeDec_tag (k : Kind) (s : State) :
    exec (decodeDec k.tag) s = decodeAs k (readKind k s.rx.buf) s := by
  cases k <;> rfl

/-- The packet decoder's answer writes the outputs and nothing else, whatever it is. -/
theorem onlyOutputs_answer (s : State) (r : Except DropCause Packet) :
    OnlyOutputs s { s with rx := s.rx.answer r } := by
  simp [OnlyOutputs]

/-- A frame of the kind's own length is delivered as the packet its decode operation reads. -/
theorem exec_decodeDec_tag_delivers (k : Kind) {s : State} (h : s.rx.len.toNat = k.size) :
    ∃ t, exec (decodeDec k.tag) s = .next t ∧ OnlyOutputs s t ∧ Delivers t (readKind k s.rx.buf) := by
  have hok : checkLen k s.rx.len.toNat (readKind k s.rx.buf) = .ok (readKind k s.rx.buf) := checkLen_ok.mpr ⟨h, rfl⟩
  refine ⟨_, exec_decodeDec_tag k s, onlyOutputs_answer s _, ?_⟩
  simp [Delivers, hok]

/-- A frame of any other length is the silent discard `BAD_LEN` (R119). -/
theorem exec_decodeDec_tag_rejects (k : Kind) {s : State} (h : s.rx.len.toNat ≠ k.size) :
    ∃ t, exec (decodeDec k.tag) s = .next t ∧ OnlyOutputs s t ∧ Rejects t .badLen := by
  have herr : checkLen k s.rx.len.toNat (readKind k s.rx.buf) = .error .badLen := checkLen_error.mpr ⟨h, rfl⟩
  refine ⟨_, exec_decodeDec_tag k s, onlyOutputs_answer s _, ?_⟩
  simp [Rejects, Silent, herr]

theorem exec_decodeDec_tag_pkt_none (k : Kind) {s : State} (h : s.rx.len.toNat ≠ k.size) :
    ∃ t, exec (decodeDec k.tag) s = .next t ∧ OnlyOutputs s t ∧ t.rx.pkt = none := by
  obtain ⟨t, ht, honly, ⟨-, hpkt⟩, -⟩ := exec_decodeDec_tag_rejects k h
  exact ⟨t, ht, honly, hpkt⟩

/-! ## Calibration, the byte-sized payloads and the tag-only request (R106 to R110, R113 to R117) -/

/-- Settles O28: the calibration frame is the tag and 24 bytes, read as six words; a shorter one fails the length test. -/
theorem calibrationDecodes : Obligations.CalibrationDecodes := by
  unfold Obligations.CalibrationDecodes
  refine ⟨by decide, fun s => exec_decodeDec_tag_delivers .calibration, fun s hshort => ?_⟩
  exact exec_decodeDec_tag_pkt_none .calibration hshort.ne

/-- Settles O30: each conjunct is `exec_decodeDec_tag_delivers` at its kind, whose decode operation copies the bytes in wire
order. -/
theorem bytePacketsDecode : Obligations.BytePacketsDecode := by
  unfold Obligations.BytePacketsDecode
  exact ⟨by decide, fun s => exec_decodeDec_tag_delivers .gpio, fun s => exec_decodeDec_tag_delivers .color,
    fun s => exec_decodeDec_tag_delivers .blink, fun s => exec_decodeDec_tag_delivers .ir,
    fun s => exec_decodeDec_tag_delivers .stream, fun s => exec_decodeDec_tag_delivers .gpioDdr,
    fun s => exec_decodeDec_tag_delivers .gpioPort, fun s => exec_decodeDec_tag_delivers .power⟩

/-- Settles O31: the bootload frame is its tag alone, and any other length fails the length test. -/
theorem bootloadDecodes : Obligations.BootloadDecodes := by
  unfold Obligations.BootloadDecodes
  exact ⟨by decide, fun s => exec_decodeDec_tag_delivers .bootload, fun s => exec_decodeDec_tag_pkt_none .bootload⟩

end Sys2Proof.Machine

/-! # 43_packet_encode: the raw frame of a packet whose payload is sent (R130 to R147) and its wire frame -/

namespace Sys2Proof

/-- The raw frame has the length its kind's row of the size table gives (30_encoding R56). -/
theorem Packet.length_raw (p : Packet) : p.raw.length = p.kind.size := by cases p <;> rfl

theorem Packet.length_raw_le (p : Packet) : p.raw.length ≤ Config.maxUnpacked :=
  p.length_raw.trans_le p.kind.size_le

end Sys2Proof

namespace Sys2Proof.Machine

open Sys2Proof.Safety

/-! ## A raw frame given as its bytes -/

/-- The machine whose raw frame under construction is the bytes `bs`. -/
def State.withRaw (s : State) (bs : List Byte) : State :=
  { s with tx := s.tx.setRaw (Memory.writeBytes [] 0 bs) bs.length }

theorem State.withRaw_rawLen {bs : List Byte} (h : bs.length ≤ Config.maxUnpacked) (s : State) :
    (s.withRaw bs).tx.rawLen.toNat = bs.length := by
  have hlen : bs.length ≤ 25 := h
  simp only [State.withRaw, Encoder.setRaw_rawLen, BitVec.toNat_ofNat]
  omega

theorem State.withRaw_rawBytes {bs : List Byte} (h : bs.length ≤ Config.maxUnpacked) (s : State) :
    (s.withRaw bs).tx.rawBytes = bs := by
  rw [Encoder.rawBytes, State.withRaw_rawLen h]
  exact Memory.bytes_writeBytes_zero Memory.wf_nil bs

theorem onlyRaw_withRaw (s : State) (bs : List Byte) : OnlyRaw s (s.withRaw bs) :=
  ⟨⟨rfl, rfl, rfl, rfl⟩, fun _ => rfl, rfl, rfl, rfl⟩

/-! ## The `ENC` instruction of a packet (R130 to R147) -/

theorem emitsPayload_of_handles {s : State} {p : Packet} (h : s.handles p.kind.tag = true) : emitsPayload s p = true := by
  simp [emitsPayload, h]

theorem emitsPayload_bootload (s : State) : emitsPayload s .bootload = true := by
  simp [emitsPayload, Packet.kind]

theorem writeBytes_raw (p : Packet) :
    Memory.writeBytes [] 0 p.raw = (rawStart p.kind.tag).writeBytes 1 p.payload := rfl

/-- The writes of an `ENC` rule at the offsets of 30_encoding R57 put the packet's raw frame down field after field. -/
theorem exec_toEnc (p : Packet) (s : State) :
    exec p.toEnc s = encodeAs p.kind (Memory.writeBytes [] 0 p.raw) s := by
  rw [writeBytes_raw]
  cases p <;> simp only [Packet.payload, Memory.writeBytes_append] <;> rfl

theorem encodeAs_of_handles {k : Kind} {s : State} (h : s.handles k.tag = true) (raw : Memory) :
    encodeAs k raw s = .next { s with tx := s.tx.setRaw raw k.size } := by
  simp [encodeAs, h]

/-- A request whose payload is sent builds the packet's raw frame; bootload's is its tag alone in any case. -/
theorem exec_toEnc_eq_withRaw {p : Packet} {s : State} (h : emitsPayload s p = true) :
    exec p.toEnc s = .next (s.withRaw p.raw) := by
  rw [emitsPayload, Bool.or_eq_true, beq_iff_eq] at h
  rcases h with hhandled | hkind
  · rw [exec_toEnc, encodeAs_of_handles hhandled, State.withRaw, p.length_raw]
  · cases p <;> cases hkind
    rfl

theorem exec_toEnc_buildsPacketRaw {p : Packet} {s : State} (h : emitsPayload s p = true) :
    ∃ t, exec p.toEnc s = .next t ∧ OnlyRaw s t ∧ t.tx.rawBytes = p.raw :=
  ⟨_, exec_toEnc_eq_withRaw h, onlyRaw_withRaw s p.raw, State.withRaw_rawBytes p.length_raw_le s⟩

/-! ## The wire frame of an encode step (R130, 41_stuffer R91) -/

/-- The stuffed image of `length_escape`, and the terminator. -/
theorem length_wireFrame (raw : List Byte) :
    (wireFrame raw).length = raw.length + raw.countP (fun b => b == 0xC0#8 || b == 0xDB#8) + 1 := by
  rw [wireFrame, List.length_append, length_escape, List.length_singleton]

/-- One encode step frames the raw frame its `ENC` instruction builds. -/
theorem encodePacket_eq_emitFrame {p : Packet} {s : State} (h : emitsPayload s p = true) :
    encodePacket p s = emitFrame (s.withRaw p.raw) := by
  rw [encodePacket, encodeInstr, exec_toEnc_eq_withRaw h, andThen_next]

theorem encodePacket_sendsPayload {p : Packet} {s : State} (hs : MachineInv s) (hbuf : BufferOk s)
    (h : emitsPayload s p = true) : SendsPayload s p := by
  obtain ⟨-, -, -, -, hout, -⟩ := hs
  have hraw : (s.withRaw p.raw).tx.rawLen.toNat ≤ Config.maxUnpacked :=
    (State.withRaw_rawLen p.length_raw_le s).trans_le p.length_raw_le
  obtain ⟨t, ht, hresult⟩ := emitFrame_result (s := s.withRaw p.raw) hbuf hraw hout
  obtain ⟨hpos, -⟩ := emitFrame_frame (s := s.withRaw p.raw) hout hbuf hraw ht
  rw [State.withRaw_rawBytes p.length_raw_le] at hresult hpos
  exact ⟨t, (encodePacket_eq_emitFrame h).trans ht, hresult, hpos.trans (length_wireFrame p.raw)⟩

/-! ## The kinds (R131 to R140, R143 to R147) -/

/-- A tag in `ENC_HANDLED` sends its payload: the `ENC` instruction builds the packet's raw frame. -/
theorem exec_toEnc_of_handles (p : Packet) {s : State} (h : s.handles p.kind.tag = true) :
    ∃ t, exec p.toEnc s = .next t ∧ OnlyRaw s t ∧ t.tx.rawBytes = p.raw :=
  exec_toEnc_buildsPacketRaw (emitsPayload_of_handles h)

/-- A tag in `ENC_HANDLED` sends its payload: the encode step sends the packet's wire frame. -/
theorem sendsPayload_of_handles {p : Packet} {s : State} (hs : MachineInv s) (hbuf : BufferOk s)
    (h : s.handles p.kind.tag = true) : SendsPayload s p :=
  encodePacket_sendsPayload hs hbuf (emitsPayload_of_handles h)

/-- Settles O39: the raw frame of each kind is its tag and the bytes of its words, most significant first, built as by
`exec_toEnc_of_handles`; the wire frame is that of `sendsPayload_of_handles`. -/
theorem floatPacketsBuildRaw : Obligations.FloatPacketsBuildRaw := by
  unfold Obligations.FloatPacketsBuildRaw
  exact ⟨fun q0 q1 q2 q3 _ => exec_toEnc_of_handles (.quaternion q0 q1 q2 q3),
    fun v _ => exec_toEnc_of_handles (.temperature v),
    fun k0 k1 k2 k3 k4 k5 _ => exec_toEnc_of_handles (.calibration k0 k1 k2 k3 k4 k5),
    fun _ _ _ => sendsPayload_of_handles⟩

/-- Settles O41: the raw frame of each kind is its tag and the bytes of its halfwords, most significant first, built as by
`exec_toEnc_of_handles`; the wire frame is that of `sendsPayload_of_handles`. -/
theorem int16TriplesBuildRaw : Obligations.Int16TriplesBuildRaw := by
  unfold Obligations.Int16TriplesBuildRaw
  exact ⟨fun a0 a1 a2 _ => exec_toEnc_of_handles (.accel a0 a1 a2), fun g0 g1 g2 _ => exec_toEnc_of_handles (.gyro g0 g1 g2),
    fun m0 m1 m2 _ => exec_toEnc_of_handles (.mag m0 m1 m2), fun _ _ _ => sendsPayload_of_handles⟩

/-- Settles O42: the raw frame of each kind is its tag and its bytes in index order, built as by `exec_toEnc_of_handles`; the
wire frame is that of `sendsPayload_of_handles`. -/
theorem bytePacketsBuildRaw : Obligations.BytePacketsBuildRaw := by
  unfold Obligations.BytePacketsBuildRaw
  exact ⟨fun v _ => exec_toEnc_of_handles (.gpio v), fun c0 c1 c2 _ => exec_toEnc_of_handles (.color c0 c1 c2),
    fun c0 c1 c2 _ => exec_toEnc_of_handles (.blink c0 c1 c2), fun v _ => exec_toEnc_of_handles (.ir v),
    fun v _ => exec_toEnc_of_handles (.stream v), fun v _ => exec_toEnc_of_handles (.gpioDdr v),
    fun v _ => exec_toEnc_of_handles (.gpioPort v), fun v _ => exec_toEnc_of_handles (.power v),
    fun _ _ _ => sendsPayload_of_handles⟩

/-- Settles O43: bootload's raw frame is its tag, which needs no escaping, and it is sent whatever `ENC_HANDLED` is. -/
theorem bootloadBuildsRaw : Obligations.BootloadBuildsRaw := by
  unfold Obligations.BootloadBuildsRaw
  refine ⟨fun s => exec_toEnc_buildsPacketRaw (p := .bootload) (emitsPayload_bootload s), fun s hs hbuf => ?_⟩
  obtain ⟨t, ht, hresult, -⟩ := encodePacket_sendsPayload hs hbuf (emitsPayload_bootload s)
  exact ⟨t, ht, hresult⟩

end Sys2Proof.Machine

/-! # 42_packet_decode: the frame a packet is read from (R118, R119, R121) -/

namespace Sys2Proof

/-- The tags of the kinds are the bytes below 17 (30_encoding R55, R59). -/
theorem Kind.tag_toNat_lt (k : Kind) : k.tag.toNat < 17 := by cases k <;> decide

theorem Kind.exists_tag_of_lt {tag : Byte} (h : tag.toNat < 17) : ∃ k : Kind, tag = k.tag := by
  have named : ∀ n : Fin 17, (Kind.ofTag? (BitVec.ofNat 8 n)).isSome := by decide
  obtain ⟨k, hk⟩ := Option.isSome_iff_exists.mp (named ⟨tag.toNat, h⟩)
  rw [BitVec.ofNat_toNat, BitVec.setWidth_eq] at hk
  exact ⟨k, Kind.tag_of_ofTag? hk⟩

/-- A tag byte names no kind exactly when it is 17 or more (30_encoding R59). -/
theorem Kind.ofTag?_eq_none_iff {tag : Byte} : Kind.ofTag? tag = none ↔ 17 ≤ tag.toNat := by
  constructor
  · intro hnone
    by_contra hlt
    obtain ⟨k, rfl⟩ := Kind.exists_tag_of_lt (Nat.lt_of_not_le hlt)
    simp at hnone
  · intro hge
    cases hk : Kind.ofTag? tag with
    | none => rfl
    | some k =>
      rw [Kind.tag_of_ofTag? hk] at hge
      exact absurd k.tag_toNat_lt (Nat.not_lt.mpr hge)

end Sys2Proof

namespace Sys2Proof.Machine

open Sys2Proof.Safety

/-! ## Reading a raw frame loses no bit and invents none (R121) -/

/-- The packet read from a closed frame of a kind has that frame as its raw frame. -/
theorem raw_readKind {k : Kind} {m : Memory} (h : m.read 0 = k.tag) : (readKind k m).raw = m.bytes k.size := by
  simp only [Memory.bytes, Kind.size]
  cases k <;>
    simp [readKind, readQuaternion, readAccel, readGyro, readMag, readTemperature, readGpio, readColor, readBlink, readIr,
      readStream, readVersion, readDeviceId, readCalibration, readGpioDdr, readGpioPort, readPower, readBootload,
      memRead1, memRead2, memRead4, Packet.raw, Packet.kind, Packet.payload, Kind.payloadBytes, bytes16_be16, bytes32_be32,
      List.range_succ, h]

/-- The closed frame `Raw(p)` is read as the packet `p`. -/
theorem readKind_of_bytes {p : Packet} {m : Memory} (h : m.bytes p.kind.size = p.raw) : readKind p.kind m = p := by
  simp only [Memory.bytes, Kind.size] at h
  cases p <;>
    simp [Packet.raw, Packet.kind, Packet.payload, Kind.payloadBytes, bytes16, bytes32, List.range_succ] at h <;>
    simp [Packet.kind, readKind, readQuaternion, readAccel, readGyro, readMag, readTemperature, readGpio, readColor,
      readBlink, readIr, readStream, readVersion, readDeviceId, readCalibration, readGpioDdr, readGpioPort, readPower,
      readBootload, memRead1, memRead2, memRead4, be16_bytes16, be32_bytes32, h]

theorem Packet.raw_head (p : Packet) : p.raw.head? = some p.kind.tag := rfl

theorem Memory.head?_bytes {m : Memory} {n : Nat} (h : 0 < n) : (m.bytes n).head? = some (m.read 0) := by
  obtain ⟨n, rfl⟩ := Nat.exists_eq_succ_of_ne_zero h.ne'
  simp [Memory.bytes, List.range_succ_eq_map]

/-- A closed frame is answered with the packet whose raw frame it is (R121). -/
theorem decodePacket_eq_ok_iff {m : Memory} {n : Nat} {p : Packet} (hn : 0 < n) :
    decodePacket m n = .ok p ↔ m.bytes n = p.raw := by
  rw [decodePacket_ok]
  constructor
  · rintro ⟨k, hk, rfl, rfl⟩
    exact (raw_readKind (Kind.tag_of_ofTag? hk)).symm
  · intro hraw
    have hlen : n = p.kind.size := by rw [← p.length_raw, ← hraw, Memory.length_bytes]
    have htag : m.read 0 = p.kind.tag := by
      rw [← Option.some_inj, ← Memory.head?_bytes hn, hraw, Packet.raw_head]
    subst hlen
    exact ⟨p.kind, by rw [htag, Kind.ofTag?_tag], rfl, (readKind_of_bytes hraw).symm⟩

/-- Settles O25: what is read has the frame as its raw frame (`raw_readKind`), and `Raw(p)` is read as `p`
(`readKind_of_bytes`). -/
theorem decodePacketInvertsRaw : Obligations.DecodePacketInvertsRaw := by
  unfold Obligations.DecodePacketInvertsRaw
  exact fun m n p => decodePacket_eq_ok_iff

/-! ## The two rejections (R118, R119) -/

theorem decodePacket_badTag {m : Memory} (n : Nat) (h : 17 ≤ (m.read 0).toNat) : decodePacket m n = .error .badTag := by
  simp only [decodePacket, Kind.ofTag?_eq_none_iff.mpr h]

theorem decodePacket_badLen {m : Memory} {n : Nat} {k : Kind} (htag : m.read 0 = k.tag) (h : n ≠ k.size) :
    decodePacket m n = .error .badLen := by
  simp only [decodePacket, htag, Kind.ofTag?_tag]
  exact checkLen_error.mpr ⟨h, rfl⟩

/-- `END` on an accumulation gives the packet decoder's answer and empties the accumulation (40_unstuffer R71). -/
theorem exec_endFrame_of_pos {s : State} (h : 0 < s.rx.len.toNat) :
    exec .endFrame s = .next { s with rx :=
      { ({ s.rx.quiet with frameClose := true }.answer (decodePacket s.rx.buf s.rx.len.toNat)) with
        len := 0, esc := false } } := by
  rw [← Decoder.closeFrame_some h]
  rfl

/-- A close that the packet decoder rejects is a silent discard with its cause (60_exceptions R161). -/
theorem exec_endFrame_rejects {s : State} {c : DropCause} (hlen : 0 < s.rx.len.toNat)
    (h : decodePacket s.rx.buf s.rx.len.toNat = .error c) :
    ∃ t, exec .endFrame s = .next t ∧ Rejects t c ∧ t.rx.len = 0 ∧ t.rx.esc = false ∧ SameBuf s t ∧ OnlyRx s t := by
  refine ⟨_, exec_endFrame_of_pos hlen, ?_⟩
  simp [h, Rejects, Silent, SameBuf, OnlyRx]

/-- Settles O26: a tag of 17 or more names no kind. -/
theorem invalidTagIsRejected : Obligations.InvalidTagIsRejected := by
  unfold Obligations.InvalidTagIsRejected
  intro s hlen htag
  have herr := decodePacket_badTag s.rx.len.toNat htag
  exact ⟨herr, exec_endFrame_rejects hlen herr⟩

/-- Settles O27: a valid tag is held to its own length. -/
theorem wrongLengthIsRejected : Obligations.WrongLengthIsRejected := by
  unfold Obligations.WrongLengthIsRejected
  intro s k hlen htag hsize
  have herr := decodePacket_badLen htag hsize
  exact ⟨herr, exec_endFrame_rejects hlen herr⟩

/-! ## The `DEC` instructions (R101 to R105, R111, R112, R118, R119) -/

/-- Settles O29: each conjunct is `exec_decodeDec_tag_delivers` at its kind, whose decode operation concatenates the bytes of a
field, the most significant first. -/
theorem numericPacketsDecode : Obligations.NumericPacketsDecode := by
  unfold Obligations.NumericPacketsDecode
  exact ⟨by decide, fun s => exec_decodeDec_tag_delivers .quaternion, fun s => exec_decodeDec_tag_delivers .accel,
    fun s => exec_decodeDec_tag_delivers .gyro, fun s => exec_decodeDec_tag_delivers .mag,
    fun s => exec_decodeDec_tag_delivers .temperature, fun s => exec_decodeDec_tag_delivers .version,
    fun s => exec_decodeDec_tag_delivers .deviceId⟩

/-- Settles O32: another length by `exec_decodeDec_tag_rejects`; `BAD_TAG` answers the rejection in every state. -/
theorem decodeInstructionsReject : Obligations.DecodeInstructionsReject := by
  unfold Obligations.DecodeInstructionsReject
  exact ⟨fun s k => exec_decodeDec_tag_rejects k, fun tag s =>
    ⟨_, rfl, onlyOutputs_answer s (.error .badTag), ⟨rfl, rfl⟩, rfl⟩⟩

end Sys2Proof.Machine

/-! # 40_unstuffer: the five operations of an input byte (R71 to R75), the outputs (R77, R78) and the stray introducer (R60) -/

namespace Sys2Proof.Machine

open Sys2Proof.Safety

/-! ## The appending bytes (R73 to R75) -/

/-- Under the invariant an appending byte completes, appends, clears the flag, and changes the receive path only. -/
theorem execLit_appends_clears {s : State} (v : Byte) (h : MachineInv s) :
    ∃ t, execLit v s = .next t ∧ Appended s t v ∧ t.rx.esc = false ∧ OnlyRx s t := by
  obtain ⟨t, ht, happ, honly⟩ := execLit_appends v h.1
  exact ⟨t, ht, happ, esc_of_execLit_eq_next ht, honly⟩

/-- Settles O11: `ESC_END` appends like `LIT` of the byte its code stands for (`exec_escEnd`). -/
theorem escEndAppendsDelimiterOrItself : Obligations.EscEndAppendsDelimiterOrItself := by
  unfold Obligations.EscEndAppendsDelimiterOrItself
  refine ⟨by decide, fun s h => ?_⟩
  rw [exec_escEnd]
  exact execLit_appends_clears _ h

/-- Settles O12: `ESC_ESC` appends like `LIT` of the byte its code stands for (`exec_escEsc`). -/
theorem escEscAppendsIntroducerOrItself : Obligations.EscEscAppendsIntroducerOrItself := by
  unfold Obligations.EscEscAppendsIntroducerOrItself
  refine ⟨by decide, fun s h => ?_⟩
  rw [exec_escEsc]
  exact execLit_appends_clears _ h

/-- The operand of `LIT` is none of the four reserved bytes (30_encoding R51). -/
theorem wellFormed_lit_iff {b : Byte} : WellFormed (.lit b) = true ↔
    b ≠ Config.delim ∧ b ≠ Config.escIntro ∧ b ≠ Config.escDelim ∧ b ≠ Config.escEsc := by
  simp [WellFormed, isLitByte, and_assoc]

theorem decodeRx_lit {b : Byte} (h : WellFormed (.lit b) = true) : decodeRx b = .lit b := by
  obtain ⟨hdelim, hintro, hd, he⟩ := wellFormed_lit_iff.mp h
  simp [decodeRx, hdelim, hintro, hd, he]

/-- Settles O13: the class of a `LIT` byte by `decodeRx_lit`, its effect by `execLit_appends_clears`. -/
theorem litAppendsItsByte : Obligations.LitAppendsItsByte := by
  unfold Obligations.LitAppendsItsByte
  exact ⟨fun b => decodeRx_lit, fun b s _ h => execLit_appends_clears b h⟩

/-! ## The frame boundary (R71, R77, R78) -/

/-- `END` without an accumulation parses nothing (R71, 30_encoding R65). -/
theorem exec_endFrame_of_empty {s : State} (h : s.rx.len.toNat = 0) :
    exec .endFrame s = .next { s with rx := { s.rx.quiet with len := 0, esc := false } } := by
  rw [← Decoder.closeFrame_empty h]
  rfl

/-- Settles O14: an empty accumulation by `exec_endFrame_of_empty`, a packet or its rejection by `exec_endFrame_of_pos`. -/
theorem endClosesTheFrame : Obligations.EndClosesTheFrame := by
  unfold Obligations.EndClosesTheFrame
  intro s
  rcases Nat.eq_zero_or_pos s.rx.len.toNat with hlen | hlen
  · refine ⟨_, exec_endFrame_of_empty hlen, ?_⟩
    simp [hlen, SameBuf, OnlyRx, Silent]
  · refine ⟨_, exec_endFrame_of_pos hlen, ?_⟩
    cases decodePacket s.rx.buf s.rx.len.toNat <;> simp [hlen, SameBuf, OnlyRx, Silent, Delivers, Rejects]

/-- The packet decoder's answer replaces the outputs, so what they held before makes no difference. -/
theorem Decoder.answer_quiet (d : Decoder) (r : Except DropCause Packet) :
    { d.quiet with frameClose := true }.answer r = { d with frameClose := true }.answer r := by
  cases r <;> rfl

/-- The instruction that a tag byte selects answers as the packet decoder does (R78, 42_packet_decode R100). -/
theorem exec_decodeDec (s : State) :
    exec (decodeDec (s.rx.buf.read 0)) s =
      .next { s with rx := s.rx.answer (decodePacket s.rx.buf s.rx.len.toNat) } := by
  cases hk : Kind.ofTag? (s.rx.buf.read 0) with
  | none => simp only [decodeDec, decodePacket, hk, exec, execBadTag]
  | some k =>
    have htag := Kind.tag_of_ofTag? hk
    rw [htag, exec_decodeDec_tag, decodeAs, decodePacket, htag, Kind.ofTag?_tag]

/-- Settles O15: both sides are the packet decoder's answer for the closed frame. -/
theorem endRunsTheSelectedDecode : Obligations.EndRunsTheSelectedDecode := by
  unfold Obligations.EndRunsTheSelectedDecode
  intro s hlen
  refine ⟨_, _, exec_decodeDec { s with rx := { s.rx with frameClose := true } }, exec_endFrame_of_pos hlen, ?_⟩
  rw [Decoder.answer_quiet]

/-! ## Which byte delivers (R77) -/

/-- An appending byte that completes delivers nothing, whatever the state it started in. -/
theorem silent_of_execLit_eq_next {v : Byte} {s t : State} (h : execLit v s = .next t) : Silent t := by
  obtain ⟨d, hd, rfl⟩ := onRx_eq_next h
  obtain ⟨a, ha, hclear⟩ := andThen_eq_next hd
  cases hclear
  rcases accAppend_cases s.rx v with ⟨-, hc⟩ | ⟨-, hc⟩ | ⟨-, hc⟩ <;> cases hc.symm.trans ha <;> exact ⟨rfl, rfl⟩

/-- Everything a byte can run: the frame boundary, the introducer, or the append of one byte: itself, or for an escape code what
it stands for. -/
theorem feed_cases (b : Byte) (s : State) :
    (b = Config.delim ∧ feed b s = exec .endFrame s) ∨
    (b = Config.escIntro ∧ feed b s = .next { s with rx := s.rx.quiet.setEsc }) ∨
    ((b ≠ Config.delim ∧ b ≠ Config.escIntro) ∧ ∃ v, deEscapeFrom s.rx.esc [b] = [v] ∧ feed b s = execLit v s) := by
  rcases decodeRx_cases b with ⟨rfl, hi⟩ | ⟨rfl, hi⟩ | ⟨rfl, hi⟩ | ⟨rfl, hi⟩ | ⟨⟨hdelim, hintro, hd, he⟩, hi⟩ <;>
    rw [feed, hi]
  · exact .inl ⟨rfl, rfl⟩
  · exact .inr (.inl ⟨rfl, rfl⟩)
  · exact .inr (.inr ⟨by decide, _, rfl, rfl⟩)
  · exact .inr (.inr ⟨by decide, _, rfl, rfl⟩)
  · exact .inr (.inr ⟨⟨hdelim, hintro⟩, b, by simp [deEscapeFrom, hintro, hd, he], rfl⟩)

/-- Only the delimiter can deliver a packet. -/
theorem silent_of_feed {b : Byte} {s t : State} (hb : b ≠ Config.delim) (h : feed b s = .next t) : Silent t := by
  rcases feed_cases b s with ⟨hdelim, -⟩ | ⟨-, hfeed⟩ | ⟨-, v, -, hfeed⟩
  · exact absurd hdelim hb
  · cases hfeed.symm.trans h
    exact ⟨rfl, rfl⟩
  · exact silent_of_execLit_eq_next (hfeed ▸ h)

/-- Under the invariant the appending byte completes, keeps the invariant, and changes the receive path only. -/
theorem execLit_inv {s : State} (v : Byte) (h : RxInv s.rx) :
    ∃ t, execLit v s = .next t ∧ RxInv t.rx ∧ OnlyRx s t := by
  obtain ⟨d, hd, hinv⟩ := accAppend_next v h
  exact ⟨_, execLit_of_accAppend hd, hinv, rfl, rfl, rfl, rfl⟩

/-- `END` completes from every state and keeps the invariant. -/
theorem exec_endFrame_inv {s : State} (h : RxInv s.rx) :
    ∃ t, exec .endFrame s = .next t ∧ RxInv t.rx ∧ OnlyRx s t := by
  obtain ⟨hwf, hin, -, hready, hdrop⟩ := closeFrame_inv h
  exact ⟨_, rfl, ⟨hwf, hin, Nat.zero_le _, hready, hdrop⟩, rfl, rfl, rfl, rfl⟩

/-- Under the invariant every byte completes, keeps the invariant, and changes the receive path only. -/
theorem feed_inv {s : State} (b : Byte) (h : RxInv s.rx) : ∃ t, feed b s = .next t ∧ RxInv t.rx ∧ OnlyRx s t := by
  rcases feed_cases b s with ⟨-, hfeed⟩ | ⟨-, hfeed⟩ | ⟨-, v, -, hfeed⟩ <;> rw [hfeed]
  · exact exec_endFrame_inv h
  · obtain ⟨hwf, hin, hlen, -, -⟩ := h
    exact ⟨_, rfl, ⟨hwf, hin, hlen, rfl, by simp⟩, rfl, rfl, rfl, rfl⟩
  · exact execLit_inv v h

/-- A closed frame is accepted exactly when its first byte is a tag and its length is that tag's (R77). -/
theorem exists_decodePacket_eq_ok {m : Memory} {n : Nat} :
    (∃ p, decodePacket m n = .ok p) ↔ ∃ k : Kind, m.read 0 = k.tag ∧ n = k.size := by
  constructor
  · rintro ⟨p, hp⟩
    obtain ⟨k, hk, hlen, -⟩ := decodePacket_ok.mp hp
    exact ⟨k, Kind.tag_of_ofTag? hk, hlen⟩
  · rintro ⟨k, htag, hlen⟩
    exact ⟨readKind k m, decodePacket_ok.mpr ⟨k, by rw [htag, Kind.ofTag?_tag], hlen, rfl⟩⟩

/-- `END` delivers exactly when the packet decoder accepts the accumulation. -/
theorem frameReady_exec_endFrame {s t : State} (h : exec .endFrame s = .next t) :
    t.rx.frameReady = true ↔ 0 < s.rx.len.toNat ∧ ∃ p, decodePacket s.rx.buf s.rx.len.toNat = .ok p := by
  rcases Nat.eq_zero_or_pos s.rx.len.toNat with hlen | hlen
  · cases (exec_endFrame_of_empty hlen).symm.trans h
    simp [hlen]
  · cases (exec_endFrame_of_pos hlen).symm.trans h
    cases decodePacket s.rx.buf s.rx.len.toNat <;> simp [hlen]

/-- Settles O17: the delimiter by `frameReady_exec_endFrame`, any other byte by `silent_of_feed`. -/
theorem frameReadyExactlyOnAcceptedClose : Obligations.FrameReadyExactlyOnAcceptedClose := by
  unfold Obligations.FrameReadyExactlyOnAcceptedClose
  intro b s h
  obtain ⟨t, ht, ⟨-, -, -, hready, -⟩, -⟩ := feed_inv b h.1
  refine ⟨t, ht, hready, ?_⟩
  by_cases hb : b = Config.delim
  · subst hb
    rw [frameReady_exec_endFrame ht, exists_decodePacket_eq_ok]
    simp
  · obtain ⟨hquiet, -⟩ := silent_of_feed hb ht
    simp [hquiet, hb]

/-! ## The stray introducer (30_encoding R60) -/

/-- No byte reads the outputs of the step before. -/
theorem feed_quiet (b : Byte) (s : State) : feed b { s with rx := s.rx.quiet } = feed b s := by
  rcases decodeRx_cases b with ⟨-, hi⟩ | ⟨-, hi⟩ | ⟨-, hi⟩ | ⟨-, hi⟩ | ⟨-, hi⟩ <;> rw [feed, feed, hi] <;> rfl

/-- Settles O18: the introducer clears the outputs and sets the flag; the second byte reads neither. -/
theorem strayIntroducerLeavesNoTrace : Obligations.StrayIntroducerLeavesNoTrace := by
  unfold Obligations.StrayIntroducerLeavesNoTrace
  intro b s hc hd
  calc andThen (feed Config.escIntro s) (feed b)
      = feed b (({ s with rx := s.rx.quiet } : State).withEsc true) := rfl
    _ = feed b { s with rx := s.rx.quiet } := feed_withEsc hc hd _ true
    _ = feed b s := feed_quiet b s

end Sys2Proof.Machine

/-! # 40_unstuffer sections 3 and 5, 60_exceptions section 5: runs of bytes (R76, R79, R80), what they do not depend on (R15, R41,
R168), and the wire frame of a packet (R151) -/

namespace Sys2Proof.Machine

open Sys2Proof.Safety

/-! ## `DeEscape` (R79) -/

theorem deEscapeFrom_cons (e : Bool) (b : Byte) (bs : List Byte) :
    deEscapeFrom e (b :: bs) = deEscapeFrom e [b] ++ deEscapeFrom (b == 0xDB#8) bs := by
  by_cases hintro : b = 0xDB#8
  · simp [deEscapeFrom, hintro]
  · simp only [deEscapeFrom, hintro, beq_false_of_ne hintro, if_false]
    split_ifs <;> rfl

theorem pendingAfter_cons (e : Bool) (b : Byte) (bs : List Byte) :
    pendingAfter e (b :: bs) = pendingAfter (b == 0xDB#8) bs := by
  cases bs <;> simp [pendingAfter, List.getLast?_cons]

/-- The image of a byte is read back as that byte. -/
theorem deEscapeFrom_escapeByte_append (r : Byte) (bs : List Byte) :
    deEscapeFrom false (escapeByte r ++ bs) = r :: deEscapeFrom false bs := by
  unfold escapeByte
  split_ifs with hdelim hintro
  · subst hdelim; rfl
  · subst hintro; rfl
  · simp only [List.singleton_append, deEscapeFrom]
    split_ifs <;> simp_all

theorem deEscape_escape (bs : List Byte) : deEscape (escape bs) = bs := by
  induction bs with
  | nil => rfl
  | cons b bs ih =>
    rw [deEscape, escape, deEscapeFrom_escapeByte_append]
    exact congrArg (b :: ·) ih

/-- Settles O37: a left inverse makes `Escape` injective. -/
theorem deEscapeInvertsEscape : Obligations.DeEscapeInvertsEscape := by
  unfold Obligations.DeEscapeInvertsEscape
  exact ⟨deEscape_escape, fun _ _ h => Function.LeftInverse.injective deEscape_escape h⟩

/-! ## The accumulation under the overflow policy (20_memory R36) -/

/-- The accumulated bytes after one more is appended: a full accumulation is discarded with the byte. -/
def accumulate (frame : List Byte) (v : Byte) : List Byte :=
  if frame.length = Config.maxUnpacked then [] else frame ++ [v]

theorem length_closedFrame (d : Decoder) : (closedFrame d).length = d.len.toNat := Memory.length_bytes _ _

/-- An append step accumulates its byte. -/
theorem closedFrame_of_appended {s t : State} {v : Byte} (h : Appended s t v) :
    closedFrame t.rx = accumulate (closedFrame s.rx) v := by
  obtain ⟨-, -, h⟩ := h
  rw [accumulate, length_closedFrame]
  split_ifs at h ⊢
  · obtain ⟨hlen, -⟩ := h
    rw [closedFrame, hlen]
    rfl
  · obtain ⟨hlen, -, hread⟩ := h
    rw [closedFrame, hlen, Memory.bytes_succ, hread, if_pos rfl]
    congr 1
    refine Memory.bytes_congr fun a ha => ?_
    rw [hread, if_neg ha.ne]

/-- Appending `ys` to an empty accumulation leaves those after the last overflow: every 26th byte empties it (R76). -/
theorem foldl_accumulate_nil (ys : List Byte) :
    ys.foldl accumulate [] = ys.drop (ys.length - ys.length % 26) := by
  induction ys using List.reverseRecOn with
  | nil => rfl
  | append_singleton ys y ih =>
    have hlen : (ys.drop (ys.length - ys.length % 26)).length = ys.length % 26 := by
      rw [List.length_drop]
      have := Nat.mod_le ys.length 26
      omega
    rw [List.foldl_append, ih, List.foldl_cons, List.foldl_nil, accumulate, hlen, List.length_append,
      List.length_singleton]
    split_ifs with hfull
    · have hmod : (ys.length + 1) % 26 = 0 := by
        have : ys.length % 26 = 25 := hfull
        omega
      rw [hmod]
      simp
    · have hmod : ys.length + 1 - (ys.length + 1) % 26 = ys.length - ys.length % 26 := by
        have : ys.length % 26 ≠ 25 := hfull
        omega
      rw [hmod, List.drop_append_of_le_length (Nat.sub_le _ _)]

theorem foldl_accumulate_nil_of_le {ys : List Byte} (h : ys.length ≤ Config.maxUnpacked) :
    ys.foldl accumulate [] = ys := by
  have hlen : ys.length ≤ 25 := h
  rw [foldl_accumulate_nil, Nat.mod_eq_of_lt (by omega), Nat.sub_self, List.drop_zero]

/-! ## A run without a delimiter (R76, R79) -/

/-- `t` is what the bytes `bs`, no delimiter among them, leave of `s`: their image appended to the accumulation, the flag of the
last byte, and the transmit path untouched. -/
structure RunsTo (s t : State) (bs : List Byte) : Prop where
  inv : RxInv t.rx
  frame : closedFrame t.rx = (deEscapeFrom s.rx.esc bs).foldl accumulate (closedFrame s.rx)
  esc : t.rx.esc = pendingAfter s.rx.esc bs
  onlyRx : OnlyRx s t

/-- A byte that is no delimiter delivers nothing and accumulates its image. -/
theorem feed_runsTo {b : Byte} {s : State} (h : RxInv s.rx) (hb : b ≠ Config.delim) :
    ∃ t, feed b s = .next t ∧ Silent t ∧ RunsTo s t [b] := by
  obtain ⟨t, ht, hinv, honly⟩ := feed_inv b h
  refine ⟨t, ht, silent_of_feed hb ht, hinv, ?_, ?_, honly⟩
  · rcases feed_cases b s with ⟨hdelim, -⟩ | ⟨rfl, hfeed⟩ | ⟨-, v, himage, hfeed⟩
    · exact absurd hdelim hb
    · cases hfeed.symm.trans ht
      rfl
    · obtain ⟨u, hu, happ, -⟩ := execLit_appends v h
      cases (hfeed.trans hu).symm.trans ht
      rw [himage]
      exact closedFrame_of_appended happ
  · obtain ⟨u, hu, hesc⟩ := feed_esc b h
    cases hu.symm.trans ht
    rw [Bool.eq_iff_iff, hesc]
    simp [pendingAfter]

theorem onlyRx_trans {s t u : State} (h : OnlyRx s t) (h' : OnlyRx t u) : OnlyRx s u := by
  obtain ⟨htx, hcfg, hinput, hfresh⟩ := h
  obtain ⟨htx', hcfg', hinput', hfresh'⟩ := h'
  exact ⟨htx'.trans htx, hcfg'.trans hcfg, hinput'.trans hinput, hfresh'.trans hfresh⟩

theorem feedAll_cons_of_next {b : Byte} {bs : List Byte} {s t u : State} {outs : List RxOutput} (hb : feed b s = .next t)
    (hbs : feedAll bs t = .next (u, outs)) : feedAll (b :: bs) s = .next (u, t.rx.output :: outs) := by
  rw [feedAll, hb, andThen_next, hbs, andThen_next]

theorem output_of_silent {t : State} (h : Silent t) : t.rx.output = (false, none) := by
  rw [Decoder.output, h.1, h.2]

/-- A run without a delimiter delivers nothing and accumulates its image. -/
theorem feedAll_runsTo {bs : List Byte} {s : State} (h : RxInv s.rx) (hbs : Config.delim ∉ bs) :
    ∃ t, feedAll bs s = .next (t, List.replicate bs.length (false, none)) ∧ RunsTo s t bs := by
  induction bs generalizing s with
  | nil => exact ⟨s, rfl, h, rfl, rfl, rfl, rfl, rfl, rfl⟩
  | cons b bs ih =>
    obtain ⟨hb, hbs⟩ := List.ne_and_not_mem_of_not_mem_cons hbs
    obtain ⟨t, ht, hsilent, first⟩ := feed_runsTo h hb.symm
    obtain ⟨u, hu, rest⟩ := ih first.inv hbs
    have hflag : t.rx.esc = (b == 0xDB#8) := by rw [first.esc]; simp [pendingAfter]
    refine ⟨u, ?_, rest.inv, ?_, ?_, onlyRx_trans first.onlyRx rest.onlyRx⟩
    · rw [feedAll_cons_of_next ht hu, output_of_silent hsilent]
      rfl
    · rw [rest.frame, first.frame, hflag, ← List.foldl_append, ← deEscapeFrom_cons]
    · rw [rest.esc, hflag, ← pendingAfter_cons]

theorem closedFrame_of_len_eq_zero {d : Decoder} (h : d.len = 0) : closedFrame d = [] := by
  rw [closedFrame, h]
  rfl

/-- Settles O19: an image that fits is accumulated whole. -/
theorem feedAccumulatesDeEscape : Obligations.FeedAccumulatesDeEscape := by
  unfold Obligations.FeedAccumulatesDeEscape
  intro bs s ⟨hrx, htx⟩ hlen hesc hbs hfits
  obtain ⟨t, ht, run⟩ := feedAll_runsTo hrx hbs
  have hframe : closedFrame t.rx = deEscape bs := by
    rw [run.frame, closedFrame_of_len_eq_zero hlen, hesc]
    exact foldl_accumulate_nil_of_le hfits
  refine ⟨t, ht, hframe, ?_, hesc ▸ run.esc, run.onlyRx, run.inv, ?_⟩
  · rw [← hframe, length_closedFrame]
  · rw [run.onlyRx.1]
    exact htx

/-- Settles O20: what an empty accumulation keeps of a run by `foldl_accumulate_nil`. -/
theorem longRunCountsModulo26 : Obligations.LongRunCountsModulo26 := by
  unfold Obligations.LongRunCountsModulo26
  intro bs s ⟨hrx, _⟩ hlen hbs
  obtain ⟨t, ht, run⟩ := feedAll_runsTo hrx hbs
  have hframe := run.frame
  rw [closedFrame_of_len_eq_zero hlen, foldl_accumulate_nil] at hframe
  refine ⟨t, ht, ?_, hframe⟩
  rw [← length_closedFrame, hframe, List.length_drop]
  have := Nat.mod_le (deEscapeFrom s.rx.esc bs).length 26
  omega

/-! ## The delimiter (R71, R77) -/

/-- The outputs of a delimiter: the packet decoder's answer for the accumulation, if there is one. -/
def Decoder.closeOutput (d : Decoder) : RxOutput :=
  if 0 < d.len.toNat then
    ((decodePacket d.buf d.len.toNat).toOption.isSome, (decodePacket d.buf d.len.toNat).toOption)
  else (false, none)

/-- A delimiter empties the accumulation and gives `closeOutput`. -/
theorem feed_delim {s : State} (h : RxInv s.rx) :
    ∃ t, feed Config.delim s = .next t ∧ RxInv t.rx ∧ OnlyRx s t ∧ t.rx.len = 0 ∧ t.rx.esc = false ∧
      t.rx.output = s.rx.closeOutput := by
  obtain ⟨t, ht, hinv, honly⟩ := exec_endFrame_inv h
  refine ⟨t, ht, hinv, honly, ?_⟩
  rw [Decoder.closeOutput]
  split_ifs with hlen
  · cases (exec_endFrame_of_pos hlen).symm.trans ht
    cases decodePacket s.rx.buf s.rx.len.toNat <;> exact ⟨rfl, rfl, rfl⟩
  · cases (exec_endFrame_of_empty (Nat.eq_zero_of_not_pos hlen)).symm.trans ht
    exact ⟨rfl, rfl, rfl⟩

/-- The packet decoder's answer is a function of the closed frame alone. -/
theorem decodePacket_toOption_congr {m m' : Memory} {n : Nat} (hn : 0 < n) (h : m.bytes n = m'.bytes n) :
    (decodePacket m n).toOption = (decodePacket m' n).toOption := by
  have accepts (m : Memory) (p : Packet) : (decodePacket m n).toOption = some p ↔ m.bytes n = p.raw := by
    rw [← decodePacket_eq_ok_iff hn]
    cases decodePacket m n <;> simp [Except.toOption]
  exact Option.ext fun p => by rw [accepts, accepts, h]

theorem len_eq_of_closedFrame_eq {d d' : Decoder} (h : closedFrame d = closedFrame d') : d.len = d'.len :=
  BitVec.eq_of_toNat_eq (by rw [← length_closedFrame, h, length_closedFrame])

theorem Decoder.closeOutput_congr {d d' : Decoder} (h : closedFrame d = closedFrame d') :
    d.closeOutput = d'.closeOutput := by
  rw [closeOutput, closeOutput, len_eq_of_closedFrame_eq h]
  split_ifs with hlen
  · rw [closedFrame, closedFrame, len_eq_of_closedFrame_eq h] at h
    rw [decodePacket_toOption_congr hlen h]
  · rfl

/-! ## What the outputs depend on (R15, R41, R168) -/

/-- Two decoders agree in what a later output can depend on: the accumulated bytes, their number included, and the flag. -/
structure Decoder.Agree (d d' : Decoder) : Prop where
  frame : closedFrame d = closedFrame d'
  esc : d.esc = d'.esc

/-- Decoders that agree give the same outputs for a byte and agree again after it. -/
theorem feed_agree (b : Byte) {s s' : State} (h : RxInv s.rx) (h' : RxInv s'.rx) (agree : s.rx.Agree s'.rx) :
    ∃ t t', feed b s = .next t ∧ feed b s' = .next t' ∧ RxInv t.rx ∧ RxInv t'.rx ∧ t.rx.output = t'.rx.output ∧
      t.rx.Agree t'.rx := by
  by_cases hb : b = Config.delim
  · subst hb
    obtain ⟨t, ht, hinv, -, hlen, hesc, hout⟩ := feed_delim h
    obtain ⟨t', ht', hinv', -, hlen', hesc', hout'⟩ := feed_delim h'
    refine ⟨t, t', ht, ht', hinv, hinv', ?_, ?_, ?_⟩
    · rw [hout, hout', Decoder.closeOutput_congr agree.frame]
    · rw [closedFrame_of_len_eq_zero hlen, closedFrame_of_len_eq_zero hlen']
    · rw [hesc, hesc']
  · obtain ⟨t, ht, hsilent, run⟩ := feed_runsTo h hb
    obtain ⟨t', ht', hsilent', run'⟩ := feed_runsTo h' hb
    refine ⟨t, t', ht, ht', run.inv, run'.inv, ?_, ?_, ?_⟩
    · rw [output_of_silent hsilent, output_of_silent hsilent']
    · rw [run.frame, run'.frame, agree.frame, agree.esc]
    · rw [run.esc, run'.esc, agree.esc]

theorem feedAll_agree (bs : List Byte) {s s' : State} (h : RxInv s.rx) (h' : RxInv s'.rx) (agree : s.rx.Agree s'.rx) :
    ∃ t t' outs, feedAll bs s = .next (t, outs) ∧ feedAll bs s' = .next (t', outs) ∧ t.rx.Agree t'.rx := by
  induction bs generalizing s s' with
  | nil => exact ⟨s, s', [], rfl, rfl, agree⟩
  | cons b bs ih =>
    obtain ⟨t, t', ht, ht', hinv, hinv', hout, agree⟩ := feed_agree b h h' agree
    obtain ⟨u, u', outs, hu, hu', agree⟩ := ih hinv hinv' agree
    exact ⟨u, u', t.rx.output :: outs, feedAll_cons_of_next ht hu, hout ▸ feedAll_cons_of_next ht' hu', agree⟩

/-- Settles O21: decoders that agree below `len` and in `esc` agree for every output. -/
theorem entriesAboveLengthAreUnobservable : Obligations.EntriesAboveLengthAreUnobservable := by
  unfold Obligations.EntriesAboveLengthAreUnobservable
  intro bs s1 s2 ⟨h1, _⟩ ⟨h2, _⟩ _ hesc hframe
  obtain ⟨t1, t2, outs, ht1, ht2, agree⟩ := feedAll_agree bs h1 h2 ⟨hframe, hesc⟩
  exact ⟨t1, t2, outs, ht1, ht2, len_eq_of_closedFrame_eq agree.frame, agree.esc, agree.frame⟩

theorem agree_of_empty {d d' : Decoder} (hlen : d.len = 0) (hesc : d.esc = false) (hlen' : d'.len = 0)
    (hesc' : d'.esc = false) : d.Agree d' :=
  ⟨by rw [closedFrame_of_len_eq_zero hlen, closedFrame_of_len_eq_zero hlen'], by rw [hesc, hesc']⟩

/-- Settles O22: a delimiter leaves any two decoders in agreement. -/
theorem delimiterErasesThePast : Obligations.DelimiterErasesThePast := by
  unfold Obligations.DelimiterErasesThePast
  intro bs s1 s2 ⟨h1, _⟩ ⟨h2, _⟩
  obtain ⟨t1, ht1, hinv1, -, hlen1, hesc1, -⟩ := feed_delim h1
  obtain ⟨t2, ht2, hinv2, -, hlen2, hesc2, -⟩ := feed_delim h2
  obtain ⟨u1, u2, outs, hu1, hu2, agree⟩ := feedAll_agree bs hinv1 hinv2 (agree_of_empty hlen1 hesc1 hlen2 hesc2)
  exact ⟨u1, u2, _, _, outs, feedAll_cons_of_next ht1 hu1, feedAll_cons_of_next ht2 hu2,
    len_eq_of_closedFrame_eq agree.frame, agree.esc, agree.frame⟩

/-! ## The wire frame of a packet (R80, R151, R168) -/

theorem feedAll_append {xs ys : List Byte} {s t u : State} {outs outs' : List RxOutput}
    (hx : feedAll xs s = .next (t, outs)) (hy : feedAll ys t = .next (u, outs')) :
    feedAll (xs ++ ys) s = .next (u, outs ++ outs') := by
  induction xs generalizing s outs with
  | nil => cases hx; exact hy
  | cons x xs ih =>
    obtain ⟨s1, hs1, hx⟩ := andThen_eq_next hx
    obtain ⟨⟨t1, outs1⟩, ht1, hx⟩ := andThen_eq_next hx
    cases hx
    exact feedAll_cons_of_next hs1 (ih ht1)

/-- A delimiter after exactly `Raw(p)` delivers `p`. -/
theorem closeOutput_of_raw {d : Decoder} {p : Packet} (h : closedFrame d = p.raw) : d.closeOutput = (true, some p) := by
  have hlen : 0 < d.len.toNat := by rw [← length_closedFrame, h, p.length_raw]; exact p.kind.size_pos
  have hok : decodePacket d.buf d.len.toNat = .ok p := (decodePacket_eq_ok_iff hlen).mpr h
  rw [Decoder.closeOutput, if_pos hlen, hok]
  rfl

/-- The wire frame of a packet, fed from an empty accumulation, delivers the packet at its last byte and not before. -/
theorem feedAll_wireFrame (p : Packet) {s : State} (h : RxInv s.rx) (hlen : s.rx.len = 0) (hesc : s.rx.esc = false) :
    ∃ t, feedAll (wireFrame p.raw) s =
        .next (t, List.replicate (escape p.raw).length (false, none) ++ [(true, some p)]) ∧
      t.rx.len = 0 ∧ t.rx.esc = false ∧ OnlyRx s t := by
  obtain ⟨t, ht, run⟩ := feedAll_runsTo h (delim_notMem_escape p.raw)
  have hframe : closedFrame t.rx = p.raw := by
    rw [run.frame, closedFrame_of_len_eq_zero hlen, hesc, ← deEscape, deEscape_escape]
    exact foldl_accumulate_nil_of_le p.length_raw_le
  obtain ⟨u, hu, -, honly, hlen', hesc', hout⟩ := feed_delim run.inv
  refine ⟨u, ?_, hlen', hesc', onlyRx_trans run.onlyRx honly⟩
  rw [← closeOutput_of_raw hframe, ← hout]
  exact feedAll_append ht (feedAll_cons_of_next hu rfl)

/-- Settles O23: the image of the raw frame is accumulated as the raw frame, which the delimiter delivers. -/
theorem wireFrameDeliversItsPacket : Obligations.WireFrameDeliversItsPacket := by
  unfold Obligations.WireFrameDeliversItsPacket
  exact fun p s h hlen hesc => feedAll_wireFrame p h.1 hlen hesc

/-- Settles O24: after a delimiter the accumulation is empty, from whatever state. -/
theorem nextFrameAfterAnyStateIsDecoded : Obligations.NextFrameAfterAnyStateIsDecoded := by
  unfold Obligations.NextFrameAfterAnyStateIsDecoded
  intro p s h
  obtain ⟨t, ht, hinv, -, hlen, hesc, -⟩ := feed_delim h.1
  obtain ⟨u, hu, hlen', hesc', -⟩ := feedAll_wireFrame p hinv hlen hesc
  exact ⟨u, _, feedAll_cons_of_next ht hu, hlen', hesc'⟩

end Sys2Proof.Machine

/-! # 43_packet_encode: the frame every encode step answers (R130, R148, R149, R151), and the refusal of a short buffer (R184) -/

namespace Sys2Proof

/-- An instruction of the space `enc_tag` is the request of a packet or the tag-only request. -/
theorem Instr.encTag_cases {i : Instr} (h : i.space = .encTag) :
    (∃ p : Packet, i = p.toEnc) ∨ ∃ tag, i = .encTagOnly tag := by
  cases i
  case encQuaternion q0 q1 q2 q3 => exact .inl ⟨.quaternion q0 q1 q2 q3, rfl⟩
  case encAccel a0 a1 a2 => exact .inl ⟨.accel a0 a1 a2, rfl⟩
  case encGyro g0 g1 g2 => exact .inl ⟨.gyro g0 g1 g2, rfl⟩
  case encMag m0 m1 m2 => exact .inl ⟨.mag m0 m1 m2, rfl⟩
  case encTemperature t => exact .inl ⟨.temperature t, rfl⟩
  case encGpio v => exact .inl ⟨.gpio v, rfl⟩
  case encColor c0 c1 c2 => exact .inl ⟨.color c0 c1 c2, rfl⟩
  case encBlink c0 c1 c2 => exact .inl ⟨.blink c0 c1 c2, rfl⟩
  case encIr v => exact .inl ⟨.ir v, rfl⟩
  case encStream v => exact .inl ⟨.stream v, rfl⟩
  case encVersion w => exact .inl ⟨.version w, rfl⟩
  case encDeviceId w => exact .inl ⟨.deviceId w, rfl⟩
  case encCalibration k0 k1 k2 k3 k4 k5 => exact .inl ⟨.calibration k0 k1 k2 k3 k4 k5, rfl⟩
  case encGpioDdr v => exact .inl ⟨.gpioDdr v, rfl⟩
  case encGpioPort v => exact .inl ⟨.gpioPort v, rfl⟩
  case encPower v => exact .inl ⟨.power v, rfl⟩
  case encBootload => exact .inl ⟨.bootload, rfl⟩
  case encTagOnly tag => exact .inr ⟨tag, rfl⟩
  all_goals cases h

theorem Packet.space_toEnc (p : Packet) : p.toEnc.space = .encTag := by cases p <;> rfl

end Sys2Proof

namespace Sys2Proof.Machine

open Sys2Proof.Safety

/-! ## The raw frame an `ENC` instruction builds (R130, R148) -/

theorem exec_encTagOnly (tag : Byte) (s : State) : exec (.encTagOnly tag) s = .next (s.withRaw [tag]) := rfl

/-- A request whose payload is not sent builds the tag-only frame. -/
theorem exec_toEnc_eq_withRaw_tag {p : Packet} {s : State} (h : emitsPayload s p = false) :
    exec p.toEnc s = .next (s.withRaw [p.kind.tag]) := by
  obtain ⟨hhandled, -⟩ := Bool.or_eq_false_iff.mp h
  rw [exec_toEnc, encodeAs, hhandled]
  rfl

/-- The raw frame of a packet's request: with its payload, or its tag alone outside `ENC_HANDLED` (R130). -/
def requestRaw (s : State) (p : Packet) : List Byte := if emitsPayload s p then p.raw else [p.kind.tag]

theorem exec_toEnc_eq_withRaw_requestRaw (p : Packet) (s : State) :
    exec p.toEnc s = .next (s.withRaw (requestRaw s p)) := by
  rw [requestRaw]
  split_ifs with h
  · exact exec_toEnc_eq_withRaw h
  · exact exec_toEnc_eq_withRaw_tag (Bool.eq_false_of_not_eq_true h)

/-- A raw frame has 1 to 25 bytes (20_memory R30). -/
structure RawLength (bs : List Byte) : Prop where
  pos : 1 ≤ bs.length
  le : bs.length ≤ Config.maxUnpacked

theorem rawLength_tag (tag : Byte) : RawLength [tag] := ⟨by simp, by simp [Config.maxUnpacked]⟩

theorem rawLength_requestRaw (s : State) (p : Packet) : RawLength (requestRaw s p) := by
  rw [requestRaw]
  split_ifs
  · exact ⟨by rw [p.length_raw]; exact p.kind.size_pos, p.length_raw_le⟩
  · exact rawLength_tag _

/-- Every encode instruction builds one raw frame, the same in all machines with the same parameters. -/
theorem exec_encTag_eq_withRaw {i : Instr} (h : i.space = .encTag) (cfg : Config) :
    ∃ bs, RawLength bs ∧ ∀ s : State, s.cfg = cfg → exec i s = .next (s.withRaw bs) := by
  rcases Instr.encTag_cases h with ⟨p, rfl⟩ | ⟨tag, rfl⟩
  · refine ⟨requestRaw { State.reset with cfg := cfg } p, rawLength_requestRaw _ p, fun s hs => ?_⟩
    subst hs
    exact exec_toEnc_eq_withRaw_requestRaw p s
  · exact ⟨[tag], rawLength_tag tag, fun s _ => exec_encTagOnly tag s⟩

/-- Settles O40: version and device ID are one word at offset 1, built as by `exec_toEnc_of_handles`. -/
theorem versionAndDeviceIdBuildRaw : Obligations.VersionAndDeviceIdBuildRaw := by
  unfold Obligations.VersionAndDeviceIdBuildRaw
  exact ⟨fun w _ => exec_toEnc_of_handles (.version w), fun w _ => exec_toEnc_of_handles (.deviceId w)⟩

/-- The tag-only frame and what its instruction leaves unchanged. -/
theorem tagOnly_withRaw (s : State) (tag : Byte) :
    OnlyRaw s (s.withRaw [tag]) ∧ (s.withRaw [tag]).tx.rawBytes = [tag] :=
  ⟨onlyRaw_withRaw s [tag], State.withRaw_rawBytes (rawLength_tag tag).le s⟩

/-- Settles O44: both instructions build the tag-only frame. -/
theorem unsupportedTagsBuildTagOnly : Obligations.UnsupportedTagsBuildTagOnly := by
  unfold Obligations.UnsupportedTagsBuildTagOnly
  exact ⟨fun p s h => ⟨_, exec_toEnc_eq_withRaw_tag h, tagOnly_withRaw s p.kind.tag⟩,
    fun tag s => ⟨_, exec_encTagOnly tag s, tagOnly_withRaw s tag⟩⟩

/-! ## A short buffer is refused (R184, U6) -/

theorem emit_short {e : Encoder} (b : Byte) (h : e.outSize < Config.packetMaxSize) :
    emit e b = .refused .outputBufferTooSmall := by
  rw [emit, if_pos h]

/-- Every instruction of the stuffer emits first, and is refused there. -/
theorem exec_stuffer_short {i : Instr} {s : State} (hi : i.space = .txRawByte ∨ i.space = .txFrameEnd)
    (h : s.tx.outSize < Config.packetMaxSize) : exec i s = .refused .outputBufferTooSmall := by
  cases i
  case stuffEnd | stuffEsc => exact congrArg (fun o => onTx s (andThen o _)) (emit_short _ h)
  case stuffPass | terminate => exact congrArg (onTx s) (emit_short _ h)
  all_goals rcases hi with hi | hi <;> cases hi

theorem space_decodeTx (r : Byte) : (decodeTx r).space = .txRawByte := by
  unfold decodeTx
  split_ifs <;> rfl

theorem stuff_short {s : State} (r : Byte) (h : s.tx.outSize < Config.packetMaxSize) :
    stuff r s = .refused .outputBufferTooSmall :=
  exec_stuffer_short (.inl (space_decodeTx r)) h

/-- `EmitFrame` is refused at its first emission: a raw byte's, or the terminator's for an empty raw frame. -/
theorem emitFrame_short {s : State} (h : s.tx.outSize < Config.packetMaxSize) :
    emitFrame s = .refused .outputBufferTooSmall := by
  rw [emitFrame]
  cases s.tx.rawBytes with
  | nil => rw [stuffAll, andThen_next, exec_stuffer_short (.inr rfl) (by exact h), andThen_refused]
  | cons r rs => rw [stuffAll, stuff_short r (by exact h), andThen_refused, andThen_refused]

theorem encodeInstr_short {i : Instr} {s : State} (hi : i.space = .encTag) (h : s.tx.outSize < Config.packetMaxSize) :
    encodeInstr i s = .refused .outputBufferTooSmall := by
  obtain ⟨bs, -, hexec⟩ := exec_encTag_eq_withRaw hi s.cfg
  rw [encodeInstr, hexec s rfl, andThen_next]
  exact emitFrame_short h

/-- An answered request had a buffer large enough. -/
theorem bufferOk_of_encodeInstr {i : Instr} {s t : State} (hi : i.space = .encTag) (h : encodeInstr i s = .next t) :
    BufferOk s := by
  by_contra hshort
  cases (encodeInstr_short hi (Nat.lt_of_not_le hshort)).symm.trans h

/-- Every encode request at the ports selects an instruction of the space `enc_tag`. -/
theorem space_decodeEnc (frame : List Byte) : (decodeEnc frame).space = .encTag := by
  unfold decodeEnc
  split <;> rfl

/-- Settles O35: the emissions by `exec_stuffer_short`, every encode step by `encodeInstr_short`. -/
theorem shortOutputBufferIsRefused : Obligations.ShortOutputBufferIsRefused := by
  unfold Obligations.ShortOutputBufferIsRefused
  exact fun s h => ⟨exec_stuffer_short (.inl rfl) h, exec_stuffer_short (.inl rfl) h, fun r => exec_stuffer_short (.inl rfl) h,
    exec_stuffer_short (.inr rfl) h, fun i hi => encodeInstr_short hi h,
    fun p => encodeInstr_short p.space_toEnc h, fun tag payload => encodeInstr_short (space_decodeEnc _) h⟩

/-! ## The answer of an encode step (R130, 41_stuffer R91) -/

/-- The machine after an encode step whose raw frame is `bs`. -/
def State.sendFrame (s : State) (bs : List Byte) : State :=
  { s with tx := ((s.withRaw bs).tx.startFrame.emitBytes (wireFrame bs)).finishFrame }

theorem emitFrame_withRaw {bs : List Byte} (hbs : RawLength bs) {s : State} (hbuf : BufferOk s) :
    emitFrame (s.withRaw bs) = .next (s.sendFrame bs) := by
  have hraw := State.withRaw_rawLen hbs.le s
  rw [emitFrame_eq (s := s.withRaw bs) hbuf (hraw.trans_le hbs.le), State.withRaw_rawBytes hbs.le]
  rfl

/-- Every encode instruction sends the wire frame of one raw frame, the same in all machines with the same parameters. -/
theorem encodeInstr_eq_sendFrame {i : Instr} (h : i.space = .encTag) (cfg : Config) :
    ∃ bs, RawLength bs ∧ ∀ s : State, s.cfg = cfg → BufferOk s → encodeInstr i s = .next (s.sendFrame bs) := by
  obtain ⟨bs, hbs, hexec⟩ := exec_encTag_eq_withRaw h cfg
  refine ⟨bs, hbs, fun s hcfg hbuf => ?_⟩
  rw [encodeInstr, hexec s hcfg, andThen_next, emitFrame_withRaw hbs hbuf]

/-- An answered request is `sendFrame` of one raw frame, the same in every machine with these parameters. -/
theorem encodeInstr_eq_next {i : Instr} {s t : State} (hi : i.space = .encTag) (h : encodeInstr i s = .next t) :
    BufferOk s ∧ ∃ bs, RawLength bs ∧ t = s.sendFrame bs ∧
      ∀ u : State, u.cfg = s.cfg → BufferOk u → encodeInstr i u = .next (u.sendFrame bs) := by
  have hbuf := bufferOk_of_encodeInstr hi h
  obtain ⟨bs, hbs, hsend⟩ := encodeInstr_eq_sendFrame hi s.cfg
  cases (hsend s rfl hbuf).symm.trans h
  exact ⟨hbuf, bs, hbs, rfl, hsend⟩

theorem encodePacket_eq_sendFrame (p : Packet) {s : State} (hbuf : BufferOk s) :
    encodePacket p s = .next (s.sendFrame (requestRaw s p)) := by
  rw [encodePacket, encodeInstr, exec_toEnc_eq_withRaw_requestRaw, andThen_next,
    emitFrame_withRaw (rawLength_requestRaw s p) hbuf]

theorem encodeInstr_encTagOnly (tag : Byte) {s : State} (hbuf : BufferOk s) :
    encodeInstr (.encTagOnly tag) s = .next (s.sendFrame [tag]) := by
  rw [encodeInstr, exec_encTagOnly, andThen_next, emitFrame_withRaw (rawLength_tag tag) hbuf]

theorem onlyTx_sendFrame (s : State) (bs : List Byte) : OnlyTx s (s.sendFrame bs) := ⟨rfl, rfl, rfl, rfl⟩

section

variable {bs : List Byte} (hbs : RawLength bs) {s : State} (hbuf : BufferOk s)
include hbs hbuf

theorem room_sendFrame : (s.withRaw bs).tx.startFrame.Room (wireFrame bs).length :=
  ⟨hbuf, by simpa using length_wireFrame_le hbs.le⟩

/-- The position after an encode step is the length of its wire frame. -/
theorem sendFrame_pos : (s.sendFrame bs).tx.pos.toNat = (wireFrame bs).length :=
  (Encoder.emitBytes_pos_toNat (room_sendFrame hbs hbuf)).trans (Nat.zero_add _)

theorem sendFrame_result (hout : s.tx.out.wf) : (s.sendFrame bs).tx.result = wireFrame bs := by
  rw [Encoder.result, sendFrame_pos hbs hbuf]
  exact Memory.bytes_writeBytes_zero hout (wireFrame bs)

/-- The caller's buffer keeps what stands at and above the length of the answer (10_state R17). -/
theorem sendFrame_kept (hout : s.tx.out.wf) :
    ∀ a, (s.sendFrame bs).tx.pos.toNat ≤ a → (s.sendFrame bs).tx.out.read a = s.tx.out.read a :=
  fun _ => Encoder.read_emitBytes_of_pos_le (e := (s.withRaw bs).tx.startFrame) hout (room_sendFrame hbs hbuf)

/-- The answer of an encode step has 2 to 51 bytes (R149). -/
theorem sendFrame_pos_bounds :
    2 ≤ (s.sendFrame bs).tx.pos.toNat ∧ (s.sendFrame bs).tx.pos.toNat ≤ Config.packetMaxSize := by
  rw [sendFrame_pos hbs hbuf]
  obtain ⟨hge, -⟩ := length_wireFrame_bounds bs
  exact ⟨le_trans (Nat.succ_le_succ hbs.pos) hge, length_wireFrame_le hbs.le⟩

/-- An encode step keeps the transmit invariant. -/
theorem sendFrame_inv (h : TxInv s.tx) : TxInv (s.sendFrame bs).tx := by
  obtain ⟨-, -, -, hout, hwithin, -, -⟩ := h
  obtain ⟨hge, hle⟩ := sendFrame_pos_bounds hbs hbuf
  have hraw : (0 : Nat) + bs.length ≤ Config.maxUnpacked := by simpa using hbs.le
  have hwire : (0 : Nat) + (wireFrame bs).length ≤ Config.packetMaxSize := by simpa using length_wireFrame_le hbs.le
  exact ⟨Memory.wf_writeBytes 0 bs Memory.wf_nil, Memory.within_writeBytes bs (by simp) hraw,
    (State.withRaw_rawLen hbs.le s).trans_le hbs.le, Memory.wf_writeBytes _ _ hout,
    Memory.within_writeBytes _ hwithin hwire, hle, fun _ => hge⟩

end

/-- Settles O45: one encode step is `sendFrame` of the packet's request. -/
theorem encodeStepEmitsTheWireFrame : Obligations.EncodeStepEmitsTheWireFrame := by
  unfold Obligations.EncodeStepEmitsTheWireFrame
  intro p s ⟨_, _, _, _, hout, _⟩ hbuf
  have hbs := rawLength_requestRaw s p
  exact ⟨_, encodePacket_eq_sendFrame p hbuf, sendFrame_result hbs hbuf hout, rfl, sendFrame_kept hbs hbuf hout, rfl,
    onlyTx_sendFrame s _⟩

/-- A request of a tag that names no kind selects `ENC.TagOnly` of that tag (30_encoding R59). -/
theorem decodeEnc_invalidTag {tag : Byte} (h : 17 ≤ tag.toNat) (payload : List Byte) :
    decodeEnc (tag :: payload) = .encTagOnly tag := by
  have hnone : Kind.ofTag? (byteAt (tag :: payload) 0) = none := Kind.ofTag?_eq_none_iff.mpr h
  rw [decodeEnc, hnone]
  rfl

/-- Settles O46: the request selects `ENC.TagOnly`, whose step is `sendFrame` of the tag. -/
theorem invalidTagRequestSendsTagOnly : Obligations.InvalidTagRequestSendsTagOnly := by
  unfold Obligations.InvalidTagRequestSendsTagOnly
  intro tag payload s htag ⟨_, _, _, _, hout, _⟩ hbuf
  have hbs := rawLength_tag tag
  refine ⟨s.sendFrame [tag], ?_, sendFrame_result hbs hbuf hout, rfl, sendFrame_kept hbs hbuf hout, onlyTx_sendFrame s _⟩
  rw [encodeRequest, decodeEnc_invalidTag htag, encodeInstr_encTagOnly tag hbuf]

/-! ## The length of the answer (R149) -/

theorem length_wireFrame_singleton (tag : Byte) :
    (wireFrame [tag]).length = if tag = 0xC0#8 ∨ tag = 0xDB#8 then 3 else 2 := by
  rw [wireFrame, escape_singleton, List.length_append, length_escapeByte]
  split_ifs <;> simp_all

/-- The tag of a packet needs no escaping, so its wire frame has at most two bytes for each byte of the raw frame. -/
theorem length_wireFrame_raw_le (p : Packet) : (wireFrame p.raw).length ≤ 2 * p.kind.size := by
  have hpayload := length_escape_le p.payload
  have hlen := p.length_raw
  rw [Packet.raw, List.length_cons] at hlen
  rw [wireFrame, Packet.raw, escape, escapeByte_tag, List.length_append, List.length_append, List.length_singleton,
    List.length_singleton]
  omega

/-- A tag of a packet kind is neither of the two bytes that need escaping. -/
theorem length_wireFrame_tag (k : Kind) : (wireFrame [k.tag]).length = 2 := by
  rw [wireFrame, escape_singleton, escapeByte_tag]
  rfl

/-- The answered request of a packet has the length of its wire frame. -/
theorem encodePacket_pos {p : Packet} {s t : State} (h : encodePacket p s = .next t) :
    t.tx.pos.toNat = (wireFrame (requestRaw s p)).length := by
  have hbuf := bufferOk_of_encodeInstr p.space_toEnc h
  cases (encodePacket_eq_sendFrame p hbuf).symm.trans h
  exact sendFrame_pos (rawLength_requestRaw s p) hbuf

/-- Settles O47: every answer is a `sendFrame`; with a payload its length is that of the packet's wire frame, without one that of
its tag's. -/
theorem encodedLengthBounds : Obligations.EncodedLengthBounds := by
  unfold Obligations.EncodedLengthBounds
  refine ⟨fun i s t hi _ h => ?_, fun p s t _ h hsent => ?_, fun p s t _ h hsent => ?_, fun tag s t _ _ h => ?_⟩
  · obtain ⟨hbuf, bs, hbs, rfl, -⟩ := encodeInstr_eq_next hi h
    exact sendFrame_pos_bounds hbs hbuf
  · rw [encodePacket_pos h, requestRaw, if_pos hsent]
    obtain ⟨hge, -⟩ := length_wireFrame_bounds p.raw
    rw [p.length_raw] at hge
    have hle := length_wireFrame_raw_le p
    have hsize : p.kind.size ≤ 25 := p.kind.size_le
    exact ⟨hge, hle, by omega⟩
  · rw [encodePacket_pos h, requestRaw, hsent]
    exact length_wireFrame_tag p.kind
  · have hbuf := bufferOk_of_encodeInstr rfl h
    cases (encodeInstr_encTagOnly tag hbuf).symm.trans h
    rw [sendFrame_pos (rawLength_tag tag) hbuf, length_wireFrame_singleton]

/-! ## What is sent is received (R151) -/

/-- Settles O49: the answer is the packet's wire frame and the receive path is as before, so `feedAll_wireFrame` applies. -/
theorem encodeThenFeedDeliversThePacket : Obligations.EncodeThenFeedDeliversThePacket := by
  unfold Obligations.EncodeThenFeedDeliversThePacket
  intro p s ⟨hrx, _, _, _, hout, _⟩ hbuf hlen hesc hsent
  have hbs := rawLength_requestRaw s p
  have hrequest : requestRaw s p = p.raw := if_pos hsent
  rw [hrequest] at hbs
  obtain ⟨u, hu, hlen', hesc', -⟩ := feedAll_wireFrame p (s := s.sendFrame p.raw) hrx hlen hesc
  refine ⟨s.sendFrame p.raw, u, (escape p.raw).length, ?_, ?_, ?_, hlen', hesc'⟩
  · rw [encodePacket_eq_sendFrame p hbuf, hrequest]
  · rw [sendFrame_pos hbs hbuf, wireFrame, List.length_append, List.length_singleton]
  · rw [sendFrame_result hbs hbuf hout, hu]

end Sys2Proof.Machine

/-! # 30_encoding: the decoders, the encoder and the opcode table (R51 to R59, R66), and the request port (70_reset R190) -/

namespace Sys2Proof

/-! ## A packet's request (R57) -/

/-- A request that starts with the raw frame of a packet is the packet's, whatever follows the payload. -/
theorem decodeEnc_raw_append (p : Packet) (more : List Byte) : decodeEnc (p.raw ++ more) = p.toEnc := by
  have hkind : Kind.ofTag? (byteAt (p.raw ++ more) 0) = some p.kind := p.kind.ofTag?_tag
  rw [decodeEnc, hkind]
  cases p <;>
    simp [Packet.raw, Packet.kind, Packet.payload, Packet.toEnc, bytes16, bytes32, halfAt, wordAt, byteAt,
      Machine.be16_bytes16, Machine.be32_bytes32]

theorem encode_toEnc (p : Packet) : encode p.toEnc = encRequest p.kind.tag p.payload := by cases p <;> rfl

theorem Packet.length_payload_le (p : Packet) : p.payload.length ≤ Config.maxPayload :=
  Nat.le_of_succ_le_succ p.length_raw_le

/-- A request is read from its tag and 24 payload bytes (70_reset R190). -/
theorem decode_encTag (tag : Byte) {payload : List Byte} (h : payload.length = Config.maxPayload) (rest : List Byte) :
    decode .encTag (tag :: payload ++ rest) = .ok (decodeEnc (tag :: payload), rest) := by
  have hlen : Config.maxPayload ≤ (payload ++ rest).length := by rw [List.length_append, h]; exact Nat.le_add_right _ _
  rw [List.cons_append, decode, if_pos hlen, ← h, List.take_left, List.drop_left]

/-- The request of a payload of at most 24 bytes fills the port with zeros behind it. -/
theorem decode_encRequest (tag : Byte) {payload : List Byte} (h : payload.length ≤ Config.maxPayload) (rest : List Byte) :
    decode .encTag (encRequest tag payload ++ rest) = .ok (decodeEnc (encRequest tag payload), rest) :=
  decode_encTag tag (by rw [List.length_append, List.length_replicate]; omega) rest

/-! ## Decode and encode agree -/

/-- The request of a packet is its raw frame, filled up with zeros. -/
theorem decode_encode_toEnc (p : Packet) (rest : List Byte) :
    decode .encTag (encode p.toEnc ++ rest) = .ok (p.toEnc, rest) := by
  have hraw : decodeEnc (encRequest p.kind.tag p.payload) = p.toEnc := decodeEnc_raw_append p _
  rw [encode_toEnc, decode_encRequest _ p.length_payload_le, hraw]

theorem decode_encode_encTagOnly {tag : Byte} (h : 17 ≤ tag.toNat) (rest : List Byte) :
    decode .encTag (encode (.encTagOnly tag) ++ rest) = .ok (.encTagOnly tag, rest) := by
  rw [encode, decode_encRequest tag (Nat.zero_le _), encRequest, Machine.decodeEnc_invalidTag h]

theorem decodeDec_invalidTag {tag : Byte} (h : 17 ≤ tag.toNat) : decodeDec tag = .badTag tag := by
  simp only [decodeDec, Kind.ofTag?_eq_none_iff.mpr h]

/-- Settles O58: requests by the two lemmas above, the operand bytes by the class they lie in; every other instruction is one
fixed byte, or none. -/
theorem decodeInvertsEncode : Obligations.DecodeInvertsEncode := by
  unfold Obligations.DecodeInvertsEncode
  intro i rest hwf
  by_cases henc : i.space = .encTag
  · rcases Instr.encTag_cases henc with ⟨p, rfl⟩ | ⟨tag, rfl⟩
    · rw [henc]; exact decode_encode_toEnc p rest
    · exact decode_encode_encTagOnly (of_decide_eq_true hwf) rest
  · cases i
    case lit b => exact congrArg (fun i => Except.ok (i, rest)) (Machine.decodeRx_lit hwf)
    case stuffPass r => exact congrArg (fun i => Except.ok (i, rest)) (Machine.decodeTx_pass hwf)
    case badTag tag => exact congrArg (fun i => Except.ok (i, rest)) (decodeDec_invalidTag (of_decide_eq_true hwf))
    case endFrame | esc | escEnd | escEsc | stuffEnd | stuffEsc | terminate | decQuaternion | decAccel | decGyro | decMag
        | decTemperature | decGpio | decColor | decBlink | decIr | decStream | decVersion | decDeviceId | decCalibration
        | decGpioDdr | decGpioPort | decPower | decBootload => rfl
    all_goals exact absurd rfl henc

/-- What a decoder answers: a well-formed instruction of its space. -/
structure Answers (i : Instr) (sp : Space) : Prop where
  wellFormed : WellFormed i = true
  space : i.space = sp

theorem decodeRx_answers (b : Byte) : Answers (decodeRx b) .rxByte ∧ [b] = encode (decodeRx b) := by
  rcases Machine.decodeRx_cases b with ⟨rfl, hi⟩ | ⟨rfl, hi⟩ | ⟨rfl, hi⟩ | ⟨rfl, hi⟩ | ⟨hlit, hi⟩ <;> rw [hi]
  case' inr.inr.inr.inr => exact ⟨⟨Machine.wellFormed_lit_iff.mpr hlit, rfl⟩, rfl⟩
  all_goals exact ⟨⟨rfl, rfl⟩, rfl⟩

theorem decodeTx_answers (r : Byte) : Answers (decodeTx r) .txRawByte ∧ [r] = encode (decodeTx r) := by
  unfold decodeTx
  split_ifs with hdelim hintro
  · exact ⟨⟨rfl, rfl⟩, by rw [hdelim]; rfl⟩
  · exact ⟨⟨rfl, rfl⟩, by rw [hintro]; rfl⟩
  · exact ⟨⟨Machine.wellFormed_stuffPass_iff.mpr ⟨hdelim, hintro⟩, rfl⟩, rfl⟩

theorem decodeDec_answers (tag : Byte) : Answers (decodeDec tag) .decTag ∧ [tag] = encode (decodeDec tag) := by
  rcases Nat.lt_or_ge tag.toNat 17 with hvalid | hinvalid
  · obtain ⟨k, rfl⟩ := Kind.exists_tag_of_lt hvalid
    cases k <;> exact ⟨⟨rfl, rfl⟩, rfl⟩
  · rw [decodeDec_invalidTag hinvalid]
    exact ⟨⟨decide_eq_true hinvalid, rfl⟩, rfl⟩

theorem decodeEnc_answers (tag : Byte) (payload : List Byte) : Answers (decodeEnc (tag :: payload)) .encTag := by
  refine ⟨?_, Machine.space_decodeEnc _⟩
  rcases Nat.lt_or_ge tag.toNat 17 with hvalid | hinvalid
  · obtain ⟨k, rfl⟩ := Kind.exists_tag_of_lt hvalid
    cases k <;> rfl
  · rw [Machine.decodeEnc_invalidTag hinvalid]
    exact decide_eq_true hinvalid

/-- `i` is a well-formed instruction of the space `sp`, and the bytes it was read from stand in `bs` before `rest`. -/
abbrev ReadAs (sp : Space) (bs : List Byte) (i : Instr) (rest : List Byte) : Prop :=
  WellFormed i = true ∧ i.space = sp ∧
    ∃ used, bs = used ++ rest ∧ (sp ≠ .encTag → used = encode i) ∧ (sp = .encTag → used.length = 25)

theorem readAs_of_byte {i : Instr} {sp : Space} {b : Byte} (h : Answers i sp ∧ [b] = encode i) (hsp : sp ≠ .encTag)
    (rest : List Byte) : ReadAs sp (b :: rest) i rest :=
  ⟨h.1.wellFormed, h.1.space, [b], rfl, fun _ => h.2, fun henc => absurd henc hsp⟩

/-- A request is read from its tag and the 24 bytes behind it. -/
theorem readAs_of_request {tag : Byte} {bs : List Byte} (h : Config.maxPayload ≤ bs.length) :
    ReadAs .encTag (tag :: bs) (decodeEnc (tag :: bs.take Config.maxPayload)) (bs.drop Config.maxPayload) := by
  have answers := decodeEnc_answers tag (bs.take Config.maxPayload)
  refine ⟨answers.wellFormed, answers.space, tag :: bs.take Config.maxPayload, ?_, fun henc => absurd rfl henc, fun _ => ?_⟩
  · rw [List.cons_append, List.take_append_drop]
  · rw [List.length_cons, List.length_take, min_eq_left h]

/-- Settles O59: one lemma above for the decoder of each space. -/
theorem decodeAnswersWellFormed : Obligations.DecodeAnswersWellFormed := by
  unfold Obligations.DecodeAnswersWellFormed
  intro sp bs i rest h
  change ReadAs sp bs i rest
  cases sp with
  | txFrameEnd => cases h; exact ⟨rfl, rfl, [], rfl, fun _ => rfl, fun henc => by cases henc⟩
  | rxByte =>
    cases bs with
    | nil => cases h
    | cons b bs => cases h; exact readAs_of_byte (decodeRx_answers b) (by decide) _
  | txRawByte =>
    cases bs with
    | nil => cases h
    | cons r bs => cases h; exact readAs_of_byte (decodeTx_answers r) (by decide) _
  | decTag =>
    cases bs with
    | nil => cases h
    | cons tag bs => cases h; exact readAs_of_byte (decodeDec_answers tag) (by decide) _
  | encTag =>
    cases bs with
    | nil => cases h
    | cons tag bs =>
      rw [decode] at h
      split_ifs at h with hlen
      cases h
      exact readAs_of_request hlen

/-- Settles O57: each word is closed, and its decoder computes. -/
theorem sampleWordsDecode : Obligations.SampleWordsDecode := by
  unfold Obligations.SampleWordsDecode
  exact ⟨rfl, rfl, rfl, rfl, rfl, rfl, rfl, rfl⟩

/-! ## The opcode table (R66) -/

/-- The `dec_tag` instruction of a row of `tagRows` on its tag byte. -/
def decOp : Option Kind → Byte → Instr
  | none => .badTag
  | some k => fun _ => decodeDec k.tag

/-- The `enc_tag` instruction of a row of `tagRows` on a request: the tag byte and what follows it. -/
def encOp (tag : Byte) (payload : List Byte) : Option Kind → Instr
  | none => .encTagOnly tag
  | some k => decodeEnc (k.tag :: payload)

/-- A row with another operation. -/
def OpRow.map {α β : Type} (f : α → β) (r : OpRow α) : OpRow β := ⟨r.pattern, r.mask, f r.op⟩

theorem selectedOps_map {α β : Type} (f : α → β) (rows : List (OpRow α)) (b : Byte) :
    selectedOps (rows.map (OpRow.map f)) b = (selectedOps rows b).map f := by
  simp only [selectedOps, List.filter_map, List.map_map]
  rfl

theorem decRows_eq : decRows = tagRows.map (OpRow.map decOp) := rfl

theorem encRows_apply_eq (tag : Byte) (payload : List Byte) :
    encRows.map (OpRow.map (fun op => op (tag :: payload))) = tagRows.map (OpRow.map (encOp tag payload)) := rfl

/-! The rows cover the 256 bytes without an overlap: the masks are closed words, so each byte is looked up in the table. -/

/-- Each tag byte selects one row: its kind's, or the one of the invalid tags it lies in. -/
theorem selectedOps_tagRows (tag : Byte) : selectedOps tagRows tag = [Kind.ofTag? tag] := by
  revert tag; decide

theorem decOp_ofTag? (tag : Byte) : decOp (Kind.ofTag? tag) tag = decodeDec tag := by
  cases hk : Kind.ofTag? tag with
  | none => exact (decodeDec_invalidTag (Kind.ofTag?_eq_none_iff.mp hk)).symm
  | some k => rw [Kind.tag_of_ofTag? hk]; rfl

theorem encOp_ofTag? (tag : Byte) (payload : List Byte) :
    encOp tag payload (Kind.ofTag? tag) = decodeEnc (tag :: payload) := by
  cases hk : Kind.ofTag? tag with
  | none => exact (Machine.decodeEnc_invalidTag (Kind.ofTag?_eq_none_iff.mp hk) payload).symm
  | some k => rw [Kind.tag_of_ofTag? hk]; rfl

theorem selectedOps_rxRows (b : Byte) : (selectedOps rxRows b).map (RxClass.instr b) = [decodeRx b] := by
  revert b; decide

theorem selectedOps_txRows (r : Byte) : (selectedOps txRows r).map (TxClass.instr r) = [decodeTx r] := by
  revert r; decide

/-- Settles O55: the rows of the two tag spaces are those of `tagRows` with the space's own instructions. -/
theorem opcodeRowsSelectExactlyOne : Obligations.OpcodeRowsSelectExactlyOne := by
  unfold Obligations.OpcodeRowsSelectExactlyOne
  refine ⟨selectedOps_rxRows, selectedOps_txRows, selectedOps_tagRows, fun tag => ?_, fun tag payload => ?_⟩
  · rw [decRows_eq, selectedOps_map, selectedOps_tagRows, ← decOp_ofTag?]
    rfl
  · rw [← selectedOps_map, encRows_apply_eq, selectedOps_map, selectedOps_tagRows, ← encOp_ofTag?]
    rfl

end Sys2Proof

/-! # 70_reset section 4: the ports (R190) -/

namespace Sys2Proof.Machine

open Sys2Proof.Safety

/-! ## The request port -/

theorem length_portBytes (v : PayloadPort) : (portBytes v).length = Config.maxPayload := by simp [portBytes]

/-- Settles O54: the port starts with the raw frame's payload, so the request selects the packet's `ENC` instruction. -/
theorem requestPortSelectsThePacket : Obligations.RequestPortSelectsThePacket := by
  unfold Obligations.RequestPortSelectsThePacket
  intro p payload s h
  have hport : p.kind.tag :: portBytes payload = p.raw ++ (portBytes payload).drop p.payload.length := by
    conv_lhs => rw [← List.take_append_drop p.payload.length (portBytes payload), h]
    rfl
  rw [encodeRequest, hport, decodeEnc_raw_append, encodePacket]

/-! ## The output ports -/

/-- The number whose digits in base 256 are the bytes, the most significant first. -/
def bytesValue (bs : List Byte) : Nat := bs.foldl (fun n b => n * 256 + b.toNat) 0

theorem bytesValue_append_singleton (bs : List Byte) (b : Byte) :
    bytesValue (bs ++ [b]) = bytesValue bs * 256 + b.toNat := by simp [bytesValue]

theorem bytesValue_lt (bs : List Byte) : bytesValue bs < 256 ^ bs.length := by
  induction bs using List.reverseRecOn with
  | nil => simp [bytesValue]
  | append_singleton bs b ih =>
    have hb : b.toNat < 256 := b.isLt
    rw [bytesValue_append_singleton, List.length_append, List.length_singleton, pow_succ]
    omega

/-- The digit `k` places from the front is byte `k`. -/
theorem bytesValue_digit (bs : List Byte) {k : Nat} (h : k < bs.length) :
    bytesValue bs / 256 ^ (bs.length - 1 - k) % 256 = bs[k].toNat := by
  induction bs using List.reverseRecOn with
  | nil => cases h
  | append_singleton bs b ih =>
    have hb : b.toNat < 256 := b.isLt
    rw [bytesValue_append_singleton]
    rcases Nat.lt_or_ge k bs.length with hk | hk
    · have hexp : (bs ++ [b]).length - 1 - k = (bs.length - 1 - k) + 1 := by
        rw [List.length_append, List.length_singleton]; omega
      have hdiv : (bytesValue bs * 256 + b.toNat) / 256 = bytesValue bs := by omega
      rw [hexp, pow_succ', ← Nat.div_div_eq_div_mul, hdiv, ih hk, List.getElem_append_left hk]
    · have hlast : k = bs.length := by
        rw [List.length_append, List.length_singleton] at h; omega
      subst hlast
      simp only [List.length_append, List.length_singleton, Nat.add_sub_cancel, Nat.sub_self, pow_zero, Nat.div_one,
        List.getElem_concat_length]
      omega

/-- Byte `k` of a payload port of 24 bytes stands at its offset of R190. -/
theorem extractLsb'_portOfBytes {bs : List Byte} (hlen : bs.length = 24) {k : Nat} (h : k < bs.length) :
    (portOfBytes bs).extractLsb' (8 * (23 - k)) 8 = bs[k] := by
  apply BitVec.eq_of_toNat_eq
  have hlt : bytesValue bs < 2 ^ 192 := by
    have := bytesValue_lt bs
    rw [hlen] at this
    exact this
  have hexp : bs.length - 1 - k = 23 - k := by omega
  have hpow : 2 ^ (8 * (23 - k)) = 256 ^ (23 - k) := pow_mul 2 8 _
  rw [← bytesValue_digit bs h, hexp, ← hpow, BitVec.extractLsb'_toNat, Nat.shiftRight_eq_div_pow]
  change BitVec.toNat (BitVec.ofNat 192 (bytesValue bs)) / _ % 256 = _
  rw [BitVec.toNat_ofNat, Nat.mod_eq_of_lt hlt]

/-- Settles O53: the payload port is laid out as in `extractLsb'_portOfBytes`; the other ports show their field. -/
theorem outputPortsCarryTheResult : Obligations.OutputPortsCarryTheResult := by
  unfold Obligations.OutputPortsCarryTheResult
  refine ⟨fun s p hpkt => ⟨by simp only [State.ports, pktTagPort, hpkt], fun k h => ?_⟩,
    fun s hdone => ⟨?_, fun k hk hmax => ?_⟩⟩
  · have hk : k < 24 := h.trans_le p.length_payload_le
    have hport : ((List.range 24).map (pktPayloadByte s)).length = 24 := by simp
    have hbyte : pktPayloadByte s k = p.payload[k] := by simp [pktPayloadByte, hpkt, h]
    rw [State.ports, pktPayloadPort, extractLsb'_portOfBytes hport (by simpa using hk), ← hbyte]
    simp
  · simp only [State.ports, txLenPort, hdone, if_true]
  · simp [State.ports, txDataByte, hdone, hk, List.getElem?_range hmax]

end Sys2Proof.Machine

/-! # 00_scope section 3: the two paths share no state (R2, 20_memory R40) -/

namespace Sys2Proof.Machine

open Sys2Proof.Safety

/-! ## What one instruction can change (R2) -/

theorem onlyRx_of_onRx {s t : State} {o : Answer Decoder} (h : onRx s o = .next t) : OnlyRx s t := by
  obtain ⟨d, -, rfl⟩ := onRx_eq_next h
  exact ⟨rfl, rfl, rfl, rfl⟩

theorem onlyTx_of_onTx {s t : State} {o : Answer Encoder} (h : onTx s o = .next t) : OnlyTx s t := by
  obtain ⟨e, -, rfl⟩ := onTx_eq_next h
  exact ⟨rfl, rfl, rfl, rfl⟩

/-- An instruction of the un-stuffer changes the receive path only. -/
theorem onlyRx_of_exec_rxByte {i : Instr} {s t : State} (hi : i.space = .rxByte) (h : exec i s = .next t) :
    OnlyRx s t := by
  cases i
  case endFrame | esc => cases h; exact ⟨rfl, rfl, rfl, rfl⟩
  case escEnd | escEsc | lit => exact onlyRx_of_onRx h
  all_goals cases hi

/-- An instruction of the packet decoder changes the receive path only. -/
theorem onlyRx_of_exec_decTag {i : Instr} {s t : State} (hi : i.space = .decTag) (h : exec i s = .next t) :
    OnlyRx s t := by
  cases i
  case decQuaternion | decAccel | decGyro | decMag | decTemperature | decGpio | decColor | decBlink | decIr | decStream
      | decVersion | decDeviceId | decCalibration | decGpioDdr | decGpioPort | decPower | decBootload | badTag =>
    cases h; exact ⟨rfl, rfl, rfl, rfl⟩
  all_goals cases hi

/-- An instruction of the stuffer changes the transmit path only. -/
theorem onlyTx_of_exec_stuffer {i : Instr} {s t : State} (hi : i.space = .txRawByte ∨ i.space = .txFrameEnd)
    (h : exec i s = .next t) : OnlyTx s t := by
  cases i
  case stuffEnd | stuffEsc | stuffPass | terminate => exact onlyTx_of_onTx h
  all_goals rcases hi with hi | hi <;> cases hi

/-- An instruction of the packet encoder changes the transmit path only. -/
theorem onlyTx_of_exec_encTag {i : Instr} {s t : State} (hi : i.space = .encTag) (h : exec i s = .next t) :
    OnlyTx s t := by
  obtain ⟨bs, -, hexec⟩ := exec_encTag_eq_withRaw hi s.cfg
  cases (hexec s rfl).symm.trans h
  exact ⟨rfl, rfl, rfl, rfl⟩

/-- Settles O50: one lemma above for the instructions of each space. -/
theorem pathsShareNoState : Obligations.PathsShareNoState := by
  unfold Obligations.PathsShareNoState
  intro i s t h
  cases hi : i.space with
  | rxByte => exact onlyRx_of_exec_rxByte hi h
  | decTag => exact onlyRx_of_exec_decTag hi h
  | txRawByte => exact onlyTx_of_exec_stuffer (.inl hi) h
  | txFrameEnd => exact onlyTx_of_exec_stuffer (.inr hi) h
  | encTag => exact onlyTx_of_exec_encTag hi h

theorem onlyRx_of_feed {b : Byte} {s t : State} (h : feed b s = .next t) : OnlyRx s t :=
  onlyRx_of_exec_rxByte (decodeRx_answers b).1.space h

/-! ## The order of the two paths (R40) -/

/-- The machine with another transmit path. -/
def State.withTx (s : State) (e : Encoder) : State := { s with tx := e }

theorem execLit_withTx {v : Byte} {s t : State} (e : Encoder) (h : execLit v s = .next t) :
    execLit v (s.withTx e) = .next (t.withTx e) := by
  obtain ⟨d, hd, rfl⟩ := onRx_eq_next h
  exact congrArg (onRx (s.withTx e)) hd

/-- A byte does the same whatever stands in the transmit path. -/
theorem feed_withTx {b : Byte} {s t : State} (e : Encoder) (h : feed b s = .next t) :
    feed b (s.withTx e) = .next (t.withTx e) := by
  rcases decodeRx_cases b with ⟨-, hi⟩ | ⟨-, hi⟩ | ⟨-, hi⟩ | ⟨-, hi⟩ | ⟨-, hi⟩ <;> rw [feed, hi] at h ⊢
  · cases h; rfl
  · cases h; rfl
  · exact execLit_withTx e h
  · exact execLit_withTx e h
  · exact execLit_withTx e h

/-- Settles O51: in both orders the transmit path is that of the encode step alone, and the rest that of the byte alone. -/
theorem encodeCommutesWithFeed : Obligations.EncodeCommutesWithFeed := by
  unfold Obligations.EncodeCommutesWithFeed
  intro b i s t1 t2 hi hfeed henc
  obtain ⟨hbuf, bs, -, rfl, hsend⟩ := encodeInstr_eq_next hi henc
  obtain ⟨htx, hcfg, -, -⟩ := onlyRx_of_feed hfeed
  refine ⟨t1.sendFrame bs, hsend t1 hcfg (by rw [BufferOk, htx]; exact hbuf), ?_⟩
  have hsame : t1.sendFrame bs = t1.withTx (s.sendFrame bs).tx := by
    simp only [State.sendFrame, State.withRaw, State.withTx, htx]
  rw [hsame]
  exact feed_withTx _ hfeed

end Sys2Proof.Machine

/-! # 70_reset, 10_state: one step of the machine (R180 to R190), its invariant (R25, R160), and a system of several machines
(R170) -/

namespace Sys2Proof.Machine

open Sys2Proof.Safety

/-! ## The state right after reset (10_state R23) -/

/-- Settles O1: the fields of the reset state. -/
theorem resetStateIsEmptyAndQuiet : Obligations.ResetStateIsEmptyAndQuiet := by
  unfold Obligations.ResetStateIsEmptyAndQuiet
  exact ⟨rfl, rfl, rfl, rfl⟩

/-- Settles O2: the memories are empty, both counters are 0, and no packet is present. -/
theorem resetMeetsInvariant : Obligations.ResetMeetsInvariant := by
  unfold Obligations.ResetMeetsInvariant
  obtain ⟨hbuf, hraw, hout⟩ := reset_memories_wf
  exact ⟨⟨hbuf, by simp [State.reset, Decoder.reset], by decide, rfl, by decide⟩,
    hraw, by simp [State.reset, Encoder.reset], by decide, hout, by simp [State.reset, Encoder.reset], by decide, by decide⟩

/-! ## A step is one port sample (R190) -/

/-- The machine as a step begins it, the samples `rest` still waiting. -/
def State.begun (s : State) (rest : List PortsIn) : State := ({ s with input := rest }).beginStep

theorem step_cons {s : State} {p : PortsIn} {rest : List PortsIn} (h : s.input = p :: rest) :
    step s = transact p (s.begun rest) := by
  rw [step, sampleStep, h]
  rfl

theorem step_nil {s : State} (h : s.input = []) : step s = .next s.beginStep := by
  rw [step, sampleStep, h]
  rfl

/-- A step runs the sample at the front of the queue, an idle one when the queue is empty. -/
theorem step_eq_transact (s : State) : step s = transact (s.input.headD PortsIn.idle) (s.begun s.input.tail) := by
  cases hinput : s.input with
  | nil =>
    have hbegun : s.begun [] = s.beginStep := by rw [State.begun, ← hinput]
    rw [step_nil hinput, List.tail_nil, hbegun]
    rfl
  | cons p rest => exact step_cons hinput

/-- A step that completes ran the receive path's part of its sample, then the transmit path's. -/
theorem step_eq_next {s t : State} (h : step s = .next t) :
    ∃ u, rxSample (s.input.headD PortsIn.idle) (s.begun s.input.tail) = .next u ∧
      txSample (s.input.headD PortsIn.idle) u = .next t := by
  rw [step_eq_transact] at h
  exact andThen_eq_next h

theorem begun_inv {s : State} (rest : List PortsIn) (h : MachineInv s) : MachineInv (s.begun rest) := beginStep_inv rest h

/-! ## The receive path's part of a sample -/

/-- What a sample does to the receive path: reset, one byte, or nothing. -/
theorem rxSample_cases (p : PortsIn) (s : State) :
    (p.rst = true ∧ rxSample p s = .next { s with rx := s.rx.resetEvent s.fresh }) ∨
    (p.rst = false ∧ p.rxValid = true ∧ rxSample p s = feed p.rxByte s) ∨
    (p.rst = false ∧ p.rxValid = false ∧ rxSample p s = .next s) := by
  cases hrst : p.rst <;> cases hvalid : p.rxValid <;> simp [rxSample, hrst, hvalid]

theorem onlyRx_of_rxSample {p : PortsIn} {s t : State} (h : rxSample p s = .next t) : OnlyRx s t := by
  rcases rxSample_cases p s with ⟨-, hrx⟩ | ⟨-, -, hrx⟩ | ⟨-, -, hrx⟩ <;> rw [hrx] at h
  · cases h; exact ⟨rfl, rfl, rfl, rfl⟩
  · exact onlyRx_of_feed h
  · cases h; exact ⟨rfl, rfl, rfl, rfl⟩

/-- Under the invariant the receive path's part completes and keeps the invariant. -/
theorem rxSample_inv (p : PortsIn) {s : State} (h : RxInv s.rx) :
    ∃ t, rxSample p s = .next t ∧ RxInv t.rx ∧ OnlyRx s t := by
  rcases rxSample_cases p s with ⟨-, hrx⟩ | ⟨-, -, hrx⟩ | ⟨-, -, hrx⟩ <;> rw [hrx]
  · exact ⟨_, rfl, resetEvent_inv _ _, rfl, rfl, rfl, rfl⟩
  · exact feed_inv _ h
  · exact ⟨_, rfl, h, rfl, rfl, rfl, rfl⟩

/-! ## The transmit path's part of a sample -/

/-- What a sample does to the transmit path: nothing, or one encode step in a buffer large enough. -/
theorem txSample_eq_next {p : PortsIn} {s t : State} (h : txSample p s = .next t) :
    t = s ∨ BufferOk s ∧ ∃ bs, RawLength bs ∧ t = s.sendFrame bs := by
  rw [txSample] at h
  split_ifs at h
  · obtain ⟨hbuf, bs, hbs, ht, -⟩ := encodeInstr_eq_next (space_decodeEnc _) h
    exact .inr ⟨hbuf, bs, hbs, ht⟩
  · cases h; exact .inl rfl

theorem onlyTx_of_txSample {p : PortsIn} {s t : State} (h : txSample p s = .next t) :
    OnlyTx s t ∧ t.tx.outSize = s.tx.outSize := by
  rcases txSample_eq_next h with rfl | ⟨-, bs, -, rfl⟩ <;> exact ⟨⟨rfl, rfl, rfl, rfl⟩, rfl⟩

theorem txInv_of_txSample {p : PortsIn} {s t : State} (hs : TxInv s.tx) (h : txSample p s = .next t) : TxInv t.tx := by
  rcases txSample_eq_next h with rfl | ⟨hbuf, bs, hbs, rfl⟩
  · exact hs
  · exact sendFrame_inv hbs hbuf hs

/-- With the buffer the caller owes the transmit path's part completes. -/
theorem txSample_completes (p : PortsIn) {s : State} (hbuf : BufferOk s) : ∃ t, txSample p s = .next t := by
  rw [txSample]
  split_ifs
  · obtain ⟨bs, -, hsend⟩ := encodeInstr_eq_sendFrame (space_decodeEnc (p.encTag :: portBytes p.encPayload)) s.cfg
    exact ⟨_, hsend s rfl hbuf⟩
  · exact ⟨s, rfl⟩

/-! ## Every step keeps the invariant and completes (R25, R160) -/

theorem step_keeps_configuration {s t : State} (h : step s = .next t) :
    t.cfg = s.cfg ∧ t.tx.outSize = s.tx.outSize ∧ t.input = s.input.tail := by
  obtain ⟨u, hu, ht⟩ := step_eq_next h
  obtain ⟨htx, hcfg, hinput, -⟩ := onlyRx_of_rxSample hu
  obtain ⟨⟨-, hcfg', hinput', -⟩, hsize⟩ := onlyTx_of_txSample ht
  exact ⟨hcfg'.trans hcfg, hsize.trans (by rw [htx]; rfl), hinput'.trans hinput⟩

/-- Settles O9: the receive path's part keeps both, the transmit path's part too. -/
theorem stepKeepsTheConfiguration : Obligations.StepKeepsTheConfiguration := by
  unfold Obligations.StepKeepsTheConfiguration
  exact fun s t => step_keeps_configuration

theorem step_keeps_inv {s t : State} (hs : MachineInv s) (h : step s = .next t) : MachineInv t := by
  obtain ⟨hrx, htx⟩ := begun_inv s.input.tail hs
  obtain ⟨u, hu, ht⟩ := step_eq_next h
  obtain ⟨v, hv, hinv, ⟨htxEq, -⟩⟩ := rxSample_inv (s.input.headD PortsIn.idle) hrx
  cases hv.symm.trans hu
  obtain ⟨⟨hrxEq, -⟩, -⟩ := onlyTx_of_txSample ht
  exact ⟨by rw [hrxEq]; exact hinv, txInv_of_txSample (by rw [htxEq]; exact htx) ht⟩

/-- Settles O3: each part of a sample keeps the invariant of its path and leaves the other path. -/
theorem stepKeepsInvariant : Obligations.StepKeepsInvariant := by
  unfold Obligations.StepKeepsInvariant
  exact fun s t => step_keeps_inv

theorem step_completes {s : State} (hs : MachineInv s) (hbuf : BufferOk s) :
    ∃ t, step s = .next t ∧ MachineInv t ∧ BufferOk t := by
  obtain ⟨hrx, -⟩ := begun_inv s.input.tail hs
  obtain ⟨u, hu, -, ⟨htx, -⟩⟩ := rxSample_inv (s.input.headD PortsIn.idle) hrx
  obtain ⟨t, ht⟩ := txSample_completes (s.input.headD PortsIn.idle) (s := u) (by rw [BufferOk, htx]; exact hbuf)
  have hstep : step s = .next t := by rw [step_eq_transact, transact, hu, andThen_next, ht]
  obtain ⟨-, hsize, -⟩ := step_keeps_configuration hstep
  exact ⟨t, hstep, step_keeps_inv hs hstep, by rw [BufferOk, hsize]; exact hbuf⟩

/-- Settles O4: both parts of a sample complete (`rxSample_inv`, `txSample_completes`). -/
theorem stepNeverStops : Obligations.StepNeverStops := by
  unfold Obligations.StepNeverStops
  exact fun s => step_completes

/-! ## Which instructions a sample runs (R187 to R190) -/

/-- The one instruction an input byte encodes is the one its decoder answers. -/
theorem eq_decodeRx_of_decode {b : Byte} {i : Instr} (h : decode .rxByte [b] = .ok (i, [])) : i = decodeRx b := by
  cases h
  rfl

/-- The one instruction a request's tag and payload encode is the one its decoder answers. -/
theorem eq_decodeEnc_of_decode {tag : Byte} {v : PayloadPort} {j : Instr}
    (h : decode .encTag (tag :: portBytes v) = .ok (j, [])) : j = decodeEnc (tag :: portBytes v) := by
  have hport := decode_encTag tag (length_portBytes v) []
  rw [List.append_nil, h] at hport
  cases hport
  rfl

theorem rxSample_byte {p : PortsIn} (hrst : p.rst = false) (hvalid : p.rxValid = true) (s : State) :
    rxSample p s = feed p.rxByte s := by
  simp [rxSample, hrst, hvalid]

theorem rxSample_none {p : PortsIn} (hrst : p.rst = false) (hvalid : p.rxValid = false) (s : State) :
    rxSample p s = .next s := by
  simp [rxSample, hrst, hvalid]

theorem txSample_request {p : PortsIn} (hreq : p.encReq = true) (s : State) :
    txSample p s = encodeRequest p.encTag p.encPayload s := by
  simp [txSample, hreq]

theorem txSample_none {p : PortsIn} (hreq : p.encReq = false) (s : State) : txSample p s = .next s := by
  simp [txSample, hreq]

section

variable {s : State} {p : PortsIn} {rest : List PortsIn} (hinput : s.input = p :: rest)
include hinput

/-- A sample with a byte runs the byte's instruction, then the transmit path's part. -/
theorem step_byte (hrst : p.rst = false) (hvalid : p.rxValid = true) :
    step s = andThen (exec (decodeRx p.rxByte) (s.begun rest)) (txSample p) := by
  rw [step_cons hinput, transact, rxSample_byte hrst hvalid, feed]

/-- A sample without reset or byte runs the transmit path's part only. -/
theorem step_no_byte (hrst : p.rst = false) (hvalid : p.rxValid = false) : step s = txSample p (s.begun rest) := by
  rw [step_cons hinput, transact, rxSample_none hrst hvalid, andThen_next]

/-- A sample with reset empties the decoder, then runs the transmit path's part. -/
theorem step_reset (hrst : p.rst = true) :
    step s = txSample p { s.begun rest with rx := s.rx.quiet.resetEvent (s.fresh + 1) } := by
  rw [step_cons hinput, transact, rxSample, if_pos hrst]
  rfl

end

/-- Settles O5: the cases of the two parts of a sample, `step_byte`, `step_no_byte` and `step_nil`. -/
theorem stepRunsTheDecodedInstruction : Obligations.StepRunsTheDecodedInstruction := by
  unfold Obligations.StepRunsTheDecodedInstruction
  refine ⟨fun s p rest i hinput hrst hvalid hreq hi _ => ?_, fun s p rest j hinput hrst hvalid hreq hj _ => ?_,
    fun s p rest i j hinput hrst hvalid hreq hi hj _ _ => ?_, fun s p rest hinput hrst hvalid hreq => ?_, fun s => step_nil⟩
  · rw [step_byte hinput hrst hvalid, eq_decodeRx_of_decode hi, funext (txSample_none hreq), andThen_pure]
    rfl
  · rw [step_no_byte hinput hrst hvalid, eq_decodeEnc_of_decode hj, txSample_request hreq]
    rfl
  · rw [step_byte hinput hrst hvalid, eq_decodeRx_of_decode hi, eq_decodeEnc_of_decode hj, funext (txSample_request hreq)]
    rfl
  · rw [step_no_byte hinput hrst hvalid, txSample_none hreq]
    rfl

/-- Settles O6: the decoder is reset (`step_reset`), and what is left of the step is the transmit path's part. -/
theorem resetSampleWinsOverByte : Obligations.ResetSampleWinsOverByte := by
  unfold Obligations.ResetSampleWinsOverByte
  intro s p rest hinput hrst
  refine ⟨{ s.begun rest with rx := s.rx.quiet.resetEvent (s.fresh + 1) }, rfl, rfl, ⟨rfl, rfl⟩, rfl, rfl, rfl, rfl, rfl,
    fun hreq => ?_, fun hreq => ?_⟩
  · rw [step_reset hinput hrst, txSample_none hreq]
  · rw [step_reset hinput hrst, txSample_request hreq]

/-! ## A sample without a byte (R185, R190) -/

/-- `t` holds the decoder state of `s`, delivers nothing, and has the samples `rest` still to come. -/
abbrev HoldsDecoder (s t : State) (rest : List PortsIn) : Prop :=
  SameDecoder s t ∧ Silent t ∧ t.rx.drop = none ∧ t.rx.frameClose = false ∧ t.cfg = s.cfg ∧ t.input = rest

/-- Whatever changes the transmit path only, from the start of the step on, holds the decoder. -/
theorem holdsDecoder_of_onlyTx {s t : State} {rest : List PortsIn} (h : OnlyTx (s.begun rest) t) : HoldsDecoder s t rest := by
  obtain ⟨hrx, hcfg, hinput, -⟩ := h
  rw [HoldsDecoder, SameDecoder, Silent, hrx, hcfg, hinput]
  exact ⟨⟨rfl, rfl, rfl⟩, ⟨rfl, rfl⟩, rfl, rfl, rfl, rfl⟩

/-- Settles O7: without a byte a step is the transmit path's part alone, which holds the decoder. -/
theorem idleStepHoldsTheState : Obligations.IdleStepHoldsTheState := by
  unfold Obligations.IdleStepHoldsTheState
  refine ⟨fun s p rest hinput hrst hvalid hreq => ?_, fun s p rest hinput hrst hvalid _ hbuf => ?_,
    fun s t p rest hinput hrst hvalid ht => ?_, fun s hinput => ?_⟩
  · have hstep : step s = .next (s.begun rest) := by rw [step_no_byte hinput hrst hvalid, txSample_none hreq]
    exact ⟨_, hstep, ⟨rfl, rfl, rfl⟩, ⟨rfl, rfl⟩, rfl, rfl, rfl, rfl, rfl⟩
  · obtain ⟨t, ht⟩ := txSample_completes p (s := s.begun rest) hbuf
    exact ⟨t, by rw [step_no_byte hinput hrst hvalid, ht], holdsDecoder_of_onlyTx (onlyTx_of_txSample ht).1⟩
  · rw [step_no_byte hinput hrst hvalid] at ht
    obtain ⟨hsame, hsilent, -⟩ := holdsDecoder_of_onlyTx (onlyTx_of_txSample ht).1
    exact ⟨hsame, hsilent⟩
  · exact ⟨_, step_nil hinput, ⟨rfl, rfl, rfl⟩, ⟨rfl, rfl⟩, rfl, rfl, rfl, rfl, hinput⟩

/-- From silent outputs the receive path's part delivers only by a delimiter that no reset overrides (R77, R180). -/
theorem delim_of_rxSample {p : PortsIn} {s t : State} (hs : s.rx.frameReady = false) (h : rxSample p s = .next t)
    (hready : t.rx.frameReady = true) : p.rst = false ∧ p.rxValid = true ∧ p.rxByte = Config.delim := by
  rcases rxSample_cases p s with ⟨-, hrx⟩ | ⟨hrst, hvalid, hrx⟩ | ⟨-, -, hrx⟩ <;> rw [hrx] at h
  · cases h; cases hready
  · refine ⟨hrst, hvalid, ?_⟩
    by_contra hb
    obtain ⟨hquiet, -⟩ := silent_of_feed hb h
    rw [hquiet] at hready
    cases hready
  · cases h
    rw [hs] at hready
    cases hready

/-- Settles O8: the step begins with silent outputs, and an empty queue presents no byte. -/
theorem onlyDelimiterStepsDeliver : Obligations.OnlyDelimiterStepsDeliver := by
  unfold Obligations.OnlyDelimiterStepsDeliver
  intro s t h hready
  obtain ⟨u, hu, ht⟩ := step_eq_next h
  obtain ⟨⟨hrx, -⟩, -⟩ := onlyTx_of_txSample ht
  rw [hrx] at hready
  obtain ⟨hrst, hvalid, hbyte⟩ := delim_of_rxSample rfl hu hready
  cases hinput : s.input with
  | nil =>
    rw [hinput] at hvalid
    cases hvalid
  | cons p rest =>
    rw [hinput] at hrst hvalid hbyte
    exact ⟨p, rest, rfl, hrst, hvalid, hbyte⟩

/-! ## A system of machines (60_exceptions R170) -/

/-- A step of a system that completes is the step of the machine named, or nothing if there is none. -/
theorem System.stepAt_eq_next {k : Nat} {sys sys' : System} (h : System.stepAt k sys = .next sys') :
    (sys[k]? = none ∧ sys' = sys) ∨ ∃ s t, sys[k]? = some s ∧ step s = .next t ∧ sys' = sys.set k t := by
  cases hk : sys[k]? with
  | none =>
    cases (System.stepAt_none hk).symm.trans h
    exact .inl ⟨rfl, rfl⟩
  | some s =>
    rw [System.stepAt_some hk] at h
    obtain ⟨t, ht, hset⟩ := andThen_eq_next h
    cases hset
    exact .inr ⟨s, t, rfl, ht, rfl⟩

/-- Replacing one machine of the system leaves the others. -/
theorem System.getElem?_set {sys : System} {k : Nat} {s : State} (hk : sys[k]? = some s) (t : State) :
    (sys.set k t)[k]? = some t ∧ ∀ j, j ≠ k → (sys.set k t)[j]? = sys[j]? := by
  obtain ⟨hlt, -⟩ := List.getElem?_eq_some_iff.mp hk
  exact ⟨by rw [List.getElem?_set_self hlt], fun j hj => List.getElem?_set_ne hj.symm⟩

theorem stepN_succ {n : Nat} {s t u : State} (h : step s = .next t) (hu : stepN n t = .next u) :
    stepN (n + 1) s = .next u := by
  rw [stepN, h, andThen_next, hu]

/-- After an interleaving each machine is where its own steps, as many as the interleaving holds, bring it. -/
theorem System.run_eq_next {ks : List Nat} {sys sys' : System} (h : System.run ks sys = .next sys') :
    sys'.length = sys.length ∧
      ∀ j s, sys[j]? = some s → ∃ t, stepN (ks.count j) s = .next t ∧ sys'[j]? = some t := by
  induction ks generalizing sys with
  | nil =>
    cases h
    exact ⟨rfl, fun j s hj => ⟨s, rfl, hj⟩⟩
  | cons k ks ih =>
    obtain ⟨sys1, hstep, hrun⟩ := andThen_eq_next h
    obtain ⟨hlen, hrest⟩ := ih hrun
    rcases System.stepAt_eq_next hstep with ⟨hnone, rfl⟩ | ⟨sk, tk, hk, htk, rfl⟩
    · refine ⟨hlen, fun j s hj => ?_⟩
      have hne : k ≠ j := by rintro rfl; rw [hnone] at hj; cases hj
      rw [List.count_cons_of_ne hne]
      exact hrest j s hj
    · obtain ⟨hself, hother⟩ := System.getElem?_set hk tk
      refine ⟨by rw [hlen, List.length_set], fun j s hj => ?_⟩
      by_cases hne : j = k
      · subst hne
        cases hk.symm.trans hj
        obtain ⟨t, ht, hj'⟩ := hrest j tk hself
        exact ⟨t, by rw [List.count_cons_self, stepN_succ htk ht], hj'⟩
      · rw [List.count_cons_of_ne (Ne.symm hne)]
        exact hrest j s ((hother j hne).trans hj)

/-- Each machine of the system meets the invariant and has the buffer its caller owes. -/
abbrev System.Inv (sys : System) : Prop := ∀ s ∈ sys, MachineInv s ∧ BufferOk s

theorem System.stepAt_completes (k : Nat) {sys : System} (h : sys.Inv) :
    ∃ sys', System.stepAt k sys = .next sys' ∧ System.Inv sys' := by
  cases hk : sys[k]? with
  | none => exact ⟨sys, System.stepAt_none hk, h⟩
  | some s =>
    obtain ⟨hinv, hbuf⟩ := h s (List.mem_of_getElem? hk)
    obtain ⟨t, ht, hinv', hbuf'⟩ := step_completes hinv hbuf
    refine ⟨sys.set k t, by rw [System.stepAt_some hk, ht, andThen_next], fun u hu => ?_⟩
    rcases List.mem_or_eq_of_mem_set hu with hmem | rfl
    · exact h u hmem
    · exact ⟨hinv', hbuf'⟩

theorem System.run_completes (ks : List Nat) {sys : System} (h : sys.Inv) :
    ∃ sys', System.run ks sys = .next sys' ∧ System.Inv sys' := by
  induction ks generalizing sys with
  | nil => exact ⟨sys, rfl, h⟩
  | cons k ks ih =>
    obtain ⟨sys1, hstep, hinv⟩ := System.stepAt_completes k h
    obtain ⟨sys', hrun, hinv'⟩ := ih hinv
    exact ⟨sys', by rw [System.run, hstep, andThen_next, hrun], hinv'⟩

/-- Settles O52: one step by the laws of `stepAt`, an interleaving by `run_eq_next` and `run_completes`. -/
theorem instancesAreIndependent : Obligations.InstancesAreIndependent := by
  unfold Obligations.InstancesAreIndependent
  refine ⟨fun sys k s t hk ht => ?_, fun sys k s r hk hr => ?_, fun sys k s r hk hr => ?_,
    fun sys ks sys' => System.run_eq_next, fun sys ks => System.run_completes ks⟩
  · obtain ⟨hself, hother⟩ := System.getElem?_set hk t
    exact ⟨sys.set k t, by rw [System.stepAt_some hk, ht, andThen_next], hself, List.length_set, hother⟩
  · rw [System.stepAt_some hk, hr, andThen_fault]
  · rw [System.stepAt_some hk, hr, andThen_refused]

end Sys2Proof.Machine
